-- ==== Sys2Proof/Word.lean ====
section
/-! DEFINITION. The plain words of the model: bytes, and a memory as a list of cells (00_scope.md R7, R9). A bus address
is a plain number, since its width is a parameter of the board, `ADDR_W` or `PPU_ADDR_W` (R8, R38).
The operations on a memory are in Machine/Memory.lean. -/

namespace Sys2Proof

/-- "Data unit of every bus access: one byte" (R7). -/
abbrev Byte := BitVec 8

/-- The contents of one memory (`ROM`, `RAM`, `CHR`) or of one snapshot region: the bytes that differ
from what an unlisted byte reads as, each with its index, indices strictly rising. -/
abbrev Memory := List Host.Cell

end Sys2Proof
end

