-- ==== Sys2Proof/Config.lean ====
section
/-! DEFINITION. What is fixed for the life of one board instance (00_scope.md R8: the parameters) and the
one free value of the model. Every parameter is DATA that the state carries (`Launch`), so a statement
over every state is a statement over every board; `Board.default` holds the spec's defaults and, for a
parameter the spec leaves OPEN, a value named in the assumption log (notes/assumptions/3.md). -/

namespace Sys2Proof

/-- `SHIFT_VARIANT` (R8, R118). -/
inductive ShiftVariant where
  | appendHigh            -- APPEND_HIGH
  | appendHighShiftRight  -- APPEND_HIGH_SHIFT_RIGHT
  deriving DecidableEq, Repr

/-- `MIRR_BITS`, the stored width of the mirroring register: 1 or 2 (R8, R26). -/
inductive MirrBits where
  | one
  | two
  deriving DecidableEq, Repr

/-- The width as a number. -/
def MirrBits.width : MirrBits → Nat
  | .one => 1
  | .two => 2

/-- `CFG_FALLBACK` (R8, R143). -/
inductive CfgFallback where
  | mapperControlled  -- MAPPER_CONTROLLED
  | refuse            -- REFUSE
  deriving DecidableEq, Repr

/-- A 4-character snapshot identifier (R8, R177). -/
structure Ident where
  c0 : Char
  c1 : Char
  c2 : Char
  c3 : Char
  deriving DecidableEq, Repr

/-- The parameters of one board (R8), "each ... an argument of the model, fixed for the life of one board
instance". `ROM`, `RAM_INIT` and `CHR_INIT` are in `Launch`; `OPEN_BUS` is `Config.openBus`. -/
structure Board where
  /-- `SHIFT_VARIANT` -/
  shift : ShiftVariant
  /-- `PRG_SELECT_B`, the total function from 5 bits to 5 bits, written as its table (R139) -/
  prgSelectB : Vector (BitVec 5) 32
  /-- `HAS_CHR_RAM` -/
  hasChrRam : Bool
  /-- `MIRR_BITS` -/
  mirrBits : MirrBits
  /-- `CFG`, the mirroring configuration flag (R27, R28) -/
  cfg : Byte
  /-- `CFG_H` -/
  cfgH : Byte
  /-- `CFG_V` -/
  cfgV : Byte
  /-- `CFG_MA` -/
  cfgMA : Byte
  /-- `CFG_MB` -/
  cfgMB : Byte
  /-- `CFG_FALLBACK` -/
  fallback : CfgFallback
  /-- `PRG_BANKS` -/
  prgBanks : Nat
  /-- `ADDR_W`, the width of a CPU-bus address in bits -/
  addrW : Nat
  /-- `PPU_ADDR_W`, the width of a PPU-bus address in bits -/
  ppuAddrW : Nat
  /-- `RAM_BASE` -/
  ramBase : Nat
  /-- `MIRR_BASE` -/
  mirrBase : Nat
  /-- `PRGC_BASE` -/
  prgcBase : Nat
  /-- `PRG_LO_BASE` -/
  prgLoBase : Nat
  /-- `PRG_HI_BASE` -/
  prgHiBase : Nat
  /-- `READ_BASE` -/
  readBase : Nat
  /-- `READ_TOP`, inclusive -/
  readTop : Nat
  /-- `ID_PRG` -/
  idPrg : Ident
  /-- `ID_MIRR` -/
  idMirr : Ident
  /-- `ID_RAM` -/
  idRam : Ident
  /-- `ID_CHR` -/
  idChr : Ident
  /-- `CHEAT_OFFSET` -/
  cheatOffset : Nat
  /-- `CHEAT_SIZE` -/
  cheatSize : Nat
  deriving DecidableEq, Repr

/-- What a launch fixes besides its list of steps (R15(a)): the parameters, the program memory, and the
draws of the initial RAM contents. No step changes any of it. -/
structure Launch where
  board : Board
  /-- `PRG_ROM`, read-only program memory of `PRG_BANKS * 16384` bytes (R31) -/
  rom : Memory
  /-- `RAM_INIT`, 8192 arbitrary bytes (R42) -/
  ramInit : Memory
  /-- `CHR_INIT`, 8192 arbitrary bytes (R42) -/
  chrInit : Memory
  deriving DecidableEq, Repr

/-- The sizes the source fixes (R7). -/
def bankSize : Nat := 16384
/-- Scratch RAM, graphics RAM and every 8 KB window (R7). -/
def ramSize : Nat := 8192

/-- The identity as a `PRG_SELECT_B` table ("identity in the test vectors", R8). -/
def identitySelect : Vector (BitVec 5) 32 := Vector.ofFn fun k => BitVec.ofFin k

/-- The defaults of R8. DESIGN CHOICE and PRESUMED values for what R8 leaves OPEN: notes/assumptions/3.md. -/
def Board.default : Board where
  shift := .appendHigh
  prgSelectB := identitySelect
  hasChrRam := true
  mirrBits := .one
  cfg := 2
  cfgH := 0
  cfgV := 1
  cfgMA := 2
  cfgMB := 3
  fallback := .mapperControlled
  prgBanks := 32
  addrW := 16
  ppuAddrW := 14
  ramBase := 0x6000
  mirrBase := 0x8000
  prgcBase := 0xE000
  prgLoBase := 0x8000
  prgHiBase := 0xC000
  readBase := 0x6000
  readTop := 0xFFFF
  idPrg := ⟨'P', 'R', 'E', 'G'⟩
  idMirr := ⟨'M', 'I', 'R', 'R'⟩
  idRam := ⟨'W', 'R', 'A', 'M'⟩
  idChr := ⟨'C', 'H', 'R', 'R'⟩
  cheatOffset := 0x6000
  cheatSize := 8192

/-- The default board with memories that list nothing (notes/assumptions/2.md, 3.md). -/
def Launch.default : Launch where
  board := Board.default
  rom := []
  ramInit := []
  chrInit := []

/-- FREE VALUE. `OPEN_BUS`: the byte read number `n` of those the block does not answer returns, "a draw
under no law" (R165, R168). It has no body: no statement can know one of its values. -/
opaque Config.openBus : Nat → Byte

end Sys2Proof
end

