-- ==== Sys2Proof/Machine/Windows.lean ====
section
/-! DEFINITION. The CPU-bus windows in parameter form (20_memory.md R54), the two ranges of the PPU bus (R56), and what CONSTRUCT requires of the
parameters (R53, R55; 42_mapping_sync_and_lookup.md R138, R143). -/

namespace Sys2Proof

/-- `base <= a <= base + size - 1`. -/
def inRange (base size a : Nat) : Bool := decide (base ≤ a) && decide (a < base + size)

/-- The scratch-RAM window, `RAM_BASE` to `RAM_BASE + 0x1FFF`. -/
def Board.inRam (b : Board) (a : Nat) : Bool := inRange b.ramBase 0x2000 a
/-- The mirroring-control range, `MIRR_BASE` to `MIRR_BASE + 0x1FFF`. -/
def Board.inMirr (b : Board) (a : Nat) : Bool := inRange b.mirrBase 0x2000 a
/-- The program-bank-control range, `PRGC_BASE` to `PRGC_BASE + 0x1FFF`. -/
def Board.inPrgc (b : Board) (a : Nat) : Bool := inRange b.prgcBase 0x2000 a
/-- The lower program window, `PRG_LO_BASE` to `PRG_LO_BASE + 0x3FFF`. -/
def Board.inPrgLo (b : Board) (a : Nat) : Bool := inRange b.prgLoBase 0x4000 a
/-- The upper program window, `PRG_HI_BASE` to `PRG_HI_BASE + 0x3FFF`. -/
def Board.inPrgHi (b : Board) (a : Nat) : Bool := inRange b.prgHiBase 0x4000 a
/-- The range of the cartridge read handler, `READ_BASE` to `READ_TOP`, inclusive. -/
def Board.inRead (b : Board) (a : Nat) : Bool := decide (b.readBase ≤ a) && decide (a ≤ b.readTop)
/-- Some write window holds the address (ranges 2, 3 and 4 of R54). -/
def Board.inWriteWindow (b : Board) (a : Nat) : Bool := b.inPrgc a || b.inMirr a || b.inRam a
/-- Some read window holds the address (R54). -/
def Board.inReadWindow (b : Board) (a : Nat) : Bool := b.inRam a || b.inPrgLo a || b.inPrgHi a

/-- R56(a): the graphics window, PPU addresses 0x0000 to 0x1FFF. -/
def inGraphics (pa : Nat) : Bool := inRange 0 0x2000 pa
/-- R56(b): the video-RAM range, PPU addresses 0x2000 to 0x3FFF. -/
def inVideoRam (pa : Nat) : Bool := inRange 0x2000 0x2000 pa

/-- Two windows share no address. -/
def apart (base₁ size₁ base₂ size₂ : Nat) : Bool := decide (base₁ + size₁ ≤ base₂) || decide (base₂ + size₂ ≤ base₁)

/-- Alignment of windows (R53). -/
def Board.aligned (b : Board) : Bool :=
  decide (b.ramBase % 0x2000 = 0) && decide (b.mirrBase % 0x2000 = 0) && decide (b.prgcBase % 0x2000 = 0)
    && decide (b.prgLoBase % 0x4000 = 0) && decide (b.prgHiBase % 0x4000 = 0)

/-- R55(a): the three write windows are pairwise disjoint. -/
def Board.writesApart (b : Board) : Bool :=
  apart b.ramBase 0x2000 b.mirrBase 0x2000 && apart b.ramBase 0x2000 b.prgcBase 0x2000
    && apart b.mirrBase 0x2000 b.prgcBase 0x2000

/-- R55(c): the read range contains the scratch-RAM window and both program windows. -/
def Board.readCovers (b : Board) : Bool :=
  decide (b.readBase ≤ b.ramBase) && decide (b.ramBase + 0x1FFF ≤ b.readTop)
    && decide (b.readBase ≤ b.prgLoBase) && decide (b.prgLoBase + 0x3FFF ≤ b.readTop)
    && decide (b.readBase ≤ b.prgHiBase) && decide (b.prgHiBase + 0x3FFF ≤ b.readTop)

/-- R55(e): every window lies inside the `ADDR_W`-bit address space. -/
def Board.inSpace (b : Board) : Bool :=
  decide (b.ramBase + 0x2000 ≤ 2 ^ b.addrW) && decide (b.mirrBase + 0x2000 ≤ 2 ^ b.addrW)
    && decide (b.prgcBase + 0x2000 ≤ 2 ^ b.addrW) && decide (b.prgLoBase + 0x4000 ≤ 2 ^ b.addrW)
    && decide (b.prgHiBase + 0x4000 ≤ 2 ^ b.addrW) && decide (b.readTop < 2 ^ b.addrW)

/-- R55(d), (f): the program windows are disjoint, the upper above the lower, and both apart from the RAM. -/
def Board.readsApart (b : Board) : Bool :=
  apart b.prgLoBase 0x4000 b.prgHiBase 0x4000 && decide (b.prgLoBase < b.prgHiBase)
    && apart b.ramBase 0x2000 b.prgLoBase 0x4000 && apart b.ramBase 0x2000 b.prgHiBase 0x4000

/-- The address parameters meet R53 and R55; `BadMap` otherwise (R176). -/
def Board.mapOk (b : Board) : Bool :=
  b.aligned && b.writesApart && decide (b.mirrBase < b.prgcBase) && b.readCovers && b.readsApart && b.inSpace

/-- `PRG_BANKS in {1,2,4,8,16,32}`; `BadPrgSize` otherwise (R138, R176). -/
def Board.banksOk (b : Board) : Bool := decide (b.prgBanks ∈ [1, 2, 4, 8, 16, 32])

/-- `CFG` is one of the four recognised codes (R28). -/
def Board.cfgRecognised (b : Board) : Bool :=
  decide (b.cfg = b.cfgH) || decide (b.cfg = b.cfgV) || decide (b.cfg = b.cfgMA) || decide (b.cfg = b.cfgMB)

/-- `CFG` recognised or `CFG_FALLBACK = MAPPER_CONTROLLED`; `BadConfig` otherwise (R143, R176). -/
def Board.cfgOk (b : Board) : Bool := b.cfgRecognised || decide (b.fallback = .mapperControlled)

/-- CONSTRUCT accepts the parameters (R176). -/
def Board.accepted (b : Board) : Bool := b.banksOk && b.cfgOk && b.mapOk

/-- The two remaining legal-value conditions of R8, which no step of the block checks: "four distinct byte
codes" and "four distinct 4-character snapshot identifiers". -/
def Board.namesDistinct (b : Board) : Bool :=
  decide ([b.cfgH, b.cfgV, b.cfgMA, b.cfgMB].Nodup) && decide ([b.idPrg, b.idMirr, b.idRam, b.idChr].Nodup)

/-- The size of program memory in bytes, `PRG_BANKS * 16384` (R31). -/
def Board.romSize (b : Board) : Nat := b.prgBanks * bankSize

end Sys2Proof
end

