-- ==== Sys2Proof/Syntax.lean ====
section
/-! DEFINITION. What the block is given: snapshot images (44_lifecycle.md R180), the words of the three
formats with the agent that issues them (30_encoding.md R80 to R82, 00_scope.md R12), and the decoded
operations, one constructor per mnemonic of spec/opcode_table.json (R92). -/

namespace Sys2Proof

/-- One named byte region of a snapshot (R177, R180): its identifier, its size in bytes, and its bytes in
ascending index order, held as a `Memory` over the indices `0` to `size - 1`. -/
structure Region where
  id : Ident
  size : Nat
  bytes : Memory
  deriving DecidableEq, Repr

/-- A snapshot image: "an ordered list of (identifier, bytes) pairs in registration order" (R180). -/
abbrev Image := List Region

/-- The agents that cause steps (R12). The debug/cheat agent has no move (R210). -/
inductive Agent where
  | cpuMaster
  | ppuMaster
  | host
  deriving DecidableEq, Repr

/-- One listed step of a run (R15(a)): a word of format `CPU`, `PPU` or `HOST`. The `HOST` form carries the
image, which is RESTORE's operand "that is not part of the word" (R82) and which no other selector reads. A bus word is
held as a number, since its length follows `ADDR_W` or `PPU_ADDR_W`; bits above that length are no part of it
(DESIGN CHOICE, notes/assumptions/4.md). -/
inductive Request where
  | cpu (t : Nat)
  | ppu (t : Nat)
  | host (op : BitVec 3) (img : Image)
  deriving DecidableEq, Repr

/-- Each format has one agent: "bus operations ... come from the bus masters", "host operations ... come
from the host only" (R208). -/
def Request.agent : Request → Agent
  | .cpu _ => .cpuMaster
  | .ppu _ => .ppuMaster
  | .host _ _ => .host

/-- A PPU-bus access whose direction is an operand of the mnemonic (CHREXT, NTSEL: R84). -/
inductive Access where
  | read
  | write (d : Byte)
  deriving DecidableEq, Repr

/-- The operations (R92). A window access holds its offset in the window (R86), a control write the offset
(which the decoders ignore, R113(c)) and the whole data byte; an access that no window answers, its address. -/
inductive Instr where
  | prgwAh (off : BitVec 13) (d : Byte)    -- PRGW.AH
  | prgwAhsr (off : BitVec 13) (d : Byte)  -- PRGW.AHSR
  | mirw (off : BitVec 13) (d : Byte)      -- MIRW
  | ramw (off : BitVec 13) (v : Byte)      -- RAMW
  | wnop (a : Nat) (d : Byte)          -- WNOP
  | extw (a : Nat) (d : Byte)          -- EXTW
  | rdram (off : BitVec 13)                -- RDRAM
  | rdlo (off : BitVec 14)                 -- RDLO
  | rdhi (off : BitVec 14)                 -- RDHI
  | extr (a : Nat)                     -- EXTR
  | chrrd (off : BitVec 13)                -- CHRRD
  | chrwr (off : BitVec 13) (v : Byte)     -- CHRWR
  | chrext (pa : Nat) (acc : Access)       -- CHREXT
  | ntsel (pa : BitVec 13) (acc : Access)  -- NTSEL, `pa` is `PA[12:0]`
  | construct                              -- CONSTRUCT
  | power                                  -- POWER
  | save                                   -- SAVE
  | restore (img : Image)                  -- RESTORE
  | close                                  -- CLOSE
  | sync                                   -- SYNC, internal
  deriving DecidableEq, Repr

/-- The names of the rows of spec/opcode_table.json. -/
inductive Op where
  | prgwAh | prgwAhsr | mirw | ramw | wnop | extw | rdram | rdlo | rdhi | extr
  | chrrd | chrwr | chrext | ntsel | construct | power | save | restore | close | sync
  deriving DecidableEq, Repr

/-- The row an operation belongs to. -/
def Instr.op : Instr → Op
  | .prgwAh _ _ => .prgwAh
  | .prgwAhsr _ _ => .prgwAhsr
  | .mirw _ _ => .mirw
  | .ramw _ _ => .ramw
  | .wnop _ _ => .wnop
  | .extw _ _ => .extw
  | .rdram _ => .rdram
  | .rdlo _ => .rdlo
  | .rdhi _ => .rdhi
  | .extr _ => .extr
  | .chrrd _ => .chrrd
  | .chrwr _ _ => .chrwr
  | .chrext _ _ => .chrext
  | .ntsel _ _ => .ntsel
  | .construct => .construct
  | .power => .power
  | .save => .save
  | .restore _ => .restore
  | .close => .close
  | .sync => .sync

end Sys2Proof
end

