-- ==== Sys2Proof/WellFormed.lean ====
section
/-! DEFINITION. Which operations a board has: an operation is well formed for a board when some word of the
board decodes to it (30_encoding.md R83, R84, R92). -/

namespace Sys2Proof

/-- The condition of each operation's rows: the parameter that selects it, or the range its address lies in; and that
the bus is wide enough for its address (R8).
SYNC is never decoded (R92). -/
def Instr.wellFormed (b : Board) : Instr → Bool
  | .prgwAh _ _ => decide (b.shift = .appendHigh)
  | .prgwAhsr _ _ => decide (b.shift = .appendHighShiftRight)
  | .mirw _ _ => true
  | .ramw _ _ => true
  | .wnop a _ => decide (a < 2 ^ b.addrW) && !b.inWriteWindow a && b.inRead a
  | .extw a _ => decide (a < 2 ^ b.addrW) && !b.inWriteWindow a && !b.inRead a
  | .rdram _ => true
  | .rdlo _ => true
  | .rdhi _ => true
  | .extr a => decide (a < 2 ^ b.addrW) && !b.inReadWindow a
  | .chrrd off => decide (off.toNat < 2 ^ b.ppuAddrW) && b.hasChrRam
  | .chrwr off _ => decide (off.toNat < 2 ^ b.ppuAddrW) && b.hasChrRam
  | .chrext pa _ => decide (pa < 2 ^ b.ppuAddrW) && !(inGraphics pa && b.hasChrRam) && !inVideoRam pa
  | .ntsel pa _ => decide (0x2000 + pa.toNat < 2 ^ b.ppuAddrW)
  | .construct => true
  | .power => true
  | .save => true
  | .restore _ => true
  | .close => true
  | .sync => false

end Sys2Proof
end

