-- ==== Sys2Proof/Decode.lean ====
section
/-! DEFINITION. The decoder (30_encoding.md R80 to R89), total on any request and on any bytes, the encoder
written from the same tables, and the rows of spec/opcode_table.json. -/

namespace Sys2Proof

/-- Why bytes or a word spell no operation. -/
inductive DecodeError where
  | invalidHostOp  -- `HOST` selector 5, 6 or 7 (R82, R201 code 9)
  | badLength      -- no format has this many bytes
  | strayBits      -- a bit is set above the format's width
  deriving DecidableEq, Repr

/-- The offset of an address in the window that starts at `base` (R86). -/
def offsetIn (n base : Nat) (a : Nat) : BitVec n := BitVec.ofNat n (a - base)

/-- The program-bank write of the board's shift discipline: the parameter tells the two apart (R92). -/
def prgwFor (v : ShiftVariant) (off : BitVec 13) (d : Byte) : Instr :=
  match v with
  | .appendHigh => .prgwAh off d
  | .appendHighShiftRight => .prgwAhsr off d

/-- `decode_cpu` with `W = 1`, in the order R83 tests the ranges. -/
def decodeCpuWrite (b : Board) (a : Nat) (d : Byte) : Instr :=
  if b.inPrgc a then prgwFor b.shift (offsetIn 13 b.prgcBase a) d
  else if b.inMirr a then .mirw (offsetIn 13 b.mirrBase a) d
  else if b.inRam a then .ramw (offsetIn 13 b.ramBase a) d
  else if b.inRead a then .wnop a d
  else .extw a d

/-- `decode_cpu` with `W = 0`, in the order R83 tests the ranges. -/
def decodeCpuRead (b : Board) (a : Nat) : Instr :=
  if b.inRam a then .rdram (offsetIn 13 b.ramBase a)
  else if b.inPrgLo a then .rdlo (offsetIn 14 b.prgLoBase a)
  else if b.inPrgHi a then .rdhi (offsetIn 14 b.prgHiBase a)
  else .extr a

/-- A bus word with an address of `n` bits, from its fields (R80, R81): the data in bits 7:0, the address above it, `W`
on top. With `n = 16` it is the 25-bit `CPU` word, with `n = 14` the 23-bit `PPU` word. -/
def busWord (n : Nat) (w : Bool) (a : Nat) (d : Byte) : Nat := w.toNat * 2 ^ (n + 8) + a * 2 ^ 8 + d.toNat

/-- Field `W` of a bus word: bit `n + 8`, which is 24 (R80) or 22 (R81) at the default widths. -/
def busIsWrite (n t : Nat) : Bool := t.testBit (n + 8)
/-- The address field of a bus word: bits `n + 7` to 8 (R80, R81). -/
def busAddr (n t : Nat) : Nat := t / 2 ^ 8 % 2 ^ n
/-- Field `D` of a bus word: bits 7:0 (R80, R81). -/
def busData (t : Nat) : Byte := BitVec.ofNat 8 t

/-- A `CPU` transaction (R83): "the decoder is total". -/
def decodeCpu (b : Board) (t : Nat) : Instr :=
  if busIsWrite b.addrW t then decodeCpuWrite b (busAddr b.addrW t) (busData t)
  else decodeCpuRead b (busAddr b.addrW t)

/-- `decode_ppu`, by the direction and the address ranges of R84. On 14 bits of address `PA[13]` tells the two ranges
apart. On a wider bus an address above 0x3FFF is in neither, so it "is simply not the block's" (R57), which is CHREXT
(DESIGN CHOICE, notes/assumptions/4.md). -/
def decodePpuAccess (b : Board) (pa : Nat) (acc : Access) : Instr :=
  if inVideoRam pa then .ntsel (offsetIn 13 0x2000 pa) acc
  else if inGraphics pa && b.hasChrRam then
    match acc with
    | .read => .chrrd (offsetIn 13 0 pa)
    | .write v => .chrwr (offsetIn 13 0 pa) v
  else .chrext pa acc

/-- A `PPU` transaction (R84). -/
def decodePpu (b : Board) (t : Nat) : Instr :=
  decodePpuAccess b (busAddr b.ppuAddrW t) (if busIsWrite b.ppuAddrW t then .write (busData t) else .read)

/-- A host operation (R82). -/
def decodeHost (op : BitVec 3) (img : Image) : Except DecodeError Instr :=
  match op.toNat with
  | 0 => .ok .construct
  | 1 => .ok .power
  | 2 => .ok .save
  | 3 => .ok (.restore img)
  | 4 => .ok .close
  | _ => .error .invalidHostOp

/-- The decoder: which operation a request is, on a board. -/
def decode (b : Board) : Request → Except DecodeError Instr
  | .cpu t => .ok (decodeCpu b t)
  | .ppu t => .ok (decodePpu b t)
  | .host op img => decodeHost op img

/-- A `CPU` word of a board from its fields (R80). -/
def cpuWord (b : Board) (w : Bool) (a : Nat) (d : Byte) : Nat := busWord b.addrW w a d
/-- A `PPU` word of a board from its fields (R81). -/
def ppuWord (b : Board) (w : Bool) (pa : Nat) (d : Byte) : Nat := busWord b.ppuAddrW w pa d

/-- The address at an offset of a window (the inverse of `offsetIn`). -/
def addrAt {n : Nat} (base : Nat) (off : BitVec n) : Nat := base + off.toNat

/-- The `PPU` word of an access; a read has data 0 (R81). -/
def ppuAccess (b : Board) (pa : Nat) : Access → Nat
  | .read => ppuWord b false pa 0
  | .write d => ppuWord b true pa d

/-- The word of an operation; the data field of a read is 0 (R80). SYNC has none. The selectors other than
RESTORE's carry an empty image, which they do not read. -/
def encode (b : Board) : Instr → Option Request
  | .prgwAh off d => some (.cpu (cpuWord b true (addrAt b.prgcBase off) d))
  | .prgwAhsr off d => some (.cpu (cpuWord b true (addrAt b.prgcBase off) d))
  | .mirw off d => some (.cpu (cpuWord b true (addrAt b.mirrBase off) d))
  | .ramw off v => some (.cpu (cpuWord b true (addrAt b.ramBase off) v))
  | .wnop a d => some (.cpu (cpuWord b true a d))
  | .extw a d => some (.cpu (cpuWord b true a d))
  | .rdram off => some (.cpu (cpuWord b false (addrAt b.ramBase off) 0))
  | .rdlo off => some (.cpu (cpuWord b false (addrAt b.prgLoBase off) 0))
  | .rdhi off => some (.cpu (cpuWord b false (addrAt b.prgHiBase off) 0))
  | .extr a => some (.cpu (cpuWord b false a 0))
  | .chrrd off => some (.ppu (ppuAccess b (addrAt 0 off) .read))
  | .chrwr off v => some (.ppu (ppuAccess b (addrAt 0 off) (.write v)))
  | .chrext pa acc => some (.ppu (ppuAccess b pa acc))
  | .ntsel pa acc => some (.ppu (ppuAccess b (addrAt 0x2000 pa) acc))
  | .construct => some (.host 0 [])
  | .power => some (.host 1 [])
  | .save => some (.host 2 [])
  | .restore img => some (.host 3 img)
  | .close => some (.host 4 [])
  | .sync => none

/-- A bus word with `0` for the data of a read, which "is not an input ... written as 0 in an encoded trace" (R80, R81). -/
def canonicalWord (n t : Nat) : Nat :=
  busWord n (busIsWrite n t) (busAddr n t) (if busIsWrite n t then busData t else 0)

/-- A request without what its operation does not read: the data field of a read, bits above the word, and the image
of a selector other than RESTORE's. -/
def Request.canonical (b : Board) : Request → Request
  | .cpu t => .cpu (canonicalWord b.addrW t)
  | .ppu t => .ppu (canonicalWord b.ppuAddrW t)
  | .host op img => .host op (if op = 3 then img else [])

/-! ### The opcode table -/

/-- The three formats (R80 to R82). -/
inductive Format where
  | cpu
  | ppu
  | host
  deriving DecidableEq, Repr

/-- What selects between two rows of one pattern (the table's "condition"). -/
inductive RowCond where
  | always
  | shiftIs (v : ShiftVariant)
  | chrRamIs (present : Bool)
  deriving DecidableEq, Repr

/-- The condition holds of a board. -/
def RowCond.holds (b : Board) : RowCond → Bool
  | .always => true
  | .shiftIs v => decide (b.shift = v)
  | .chrRamIs p => decide (b.hasChrRam = p)

/-- One row of spec/opcode_table.json: "a word `T` selects a row when `T & mask = match`" (R83). -/
structure Row where
  op : Op
  format : Format
  pattern : Nat
  mask : Nat
  cond : RowCond
  deriving DecidableEq, Repr

/-- The CPU rows, for the default address map. -/
def cpuRows : List Row :=
  [ ⟨.prgwAh, .cpu, 0x1E00000, 0x1E00000, .shiftIs .appendHigh⟩,
    ⟨.prgwAhsr, .cpu, 0x1E00000, 0x1E00000, .shiftIs .appendHighShiftRight⟩,
    ⟨.mirw, .cpu, 0x1800000, 0x1E00000, .always⟩,
    ⟨.ramw, .cpu, 0x1600000, 0x1E00000, .always⟩,
    ⟨.wnop, .cpu, 0x1A00000, 0x1E00000, .always⟩,
    ⟨.wnop, .cpu, 0x1C00000, 0x1E00000, .always⟩,
    ⟨.extw, .cpu, 0x1000000, 0x1C00000, .always⟩,
    ⟨.extw, .cpu, 0x1400000, 0x1E00000, .always⟩,
    ⟨.rdram, .cpu, 0x0600000, 0x1E00000, .always⟩,
    ⟨.rdlo, .cpu, 0x0800000, 0x1C00000, .always⟩,
    ⟨.rdhi, .cpu, 0x0C00000, 0x1C00000, .always⟩,
    ⟨.extr, .cpu, 0x0000000, 0x1C00000, .always⟩,
    ⟨.extr, .cpu, 0x0400000, 0x1E00000, .always⟩ ]

/-- The PPU and HOST rows. -/
def otherRows : List Row :=
  [ ⟨.chrrd, .ppu, 0x000000, 0x600000, .chrRamIs true⟩,
    ⟨.chrwr, .ppu, 0x400000, 0x600000, .chrRamIs true⟩,
    ⟨.chrext, .ppu, 0x000000, 0x600000, .chrRamIs false⟩,
    ⟨.chrext, .ppu, 0x400000, 0x600000, .chrRamIs false⟩,
    ⟨.ntsel, .ppu, 0x200000, 0x200000, .always⟩,
    ⟨.construct, .host, 0, 7, .always⟩,
    ⟨.power, .host, 1, 7, .always⟩,
    ⟨.save, .host, 2, 7, .always⟩,
    ⟨.restore, .host, 3, 7, .always⟩,
    ⟨.close, .host, 4, 7, .always⟩ ]

/-- The table less SYNC's row, which has no pattern (R92). -/
def opcodeTable : List Row := cpuRows ++ otherRows

/-- The format of a request. -/
def Request.format : Request → Format
  | .cpu _ => .cpu
  | .ppu _ => .ppu
  | .host _ _ => .host

/-- The word of a request as a number. -/
def Request.word : Request → Nat
  | .cpu t => t
  | .ppu t => t
  | .host op _ => op.toNat

/-- A request selects a row of a board. -/
def Row.selects (b : Board) (r : Request) (row : Row) : Bool :=
  decide (row.format = r.format) && decide (r.word &&& row.mask = row.pattern) && row.cond.holds b

/-! ### The pseudo-operations -/

/-- Bit `j` of a bank number, as a data byte. -/
def bankBit (n : BitVec 5) (j : Nat) : Byte := if n.getLsbD j then 1 else 0

/-- `LOADBANK n`: five writes at `PRGC_BASE`, "least-significant bit of `n` first" (R91). -/
def loadBank (b : Board) (n : BitVec 5) : List Request :=
  (List.range 5).map fun j => .cpu (cpuWord b true b.prgcBase (bankBit n j))

/-- `SETMIRR m`: one write at `MIRR_BASE` (R91). -/
def setMirr (b : Board) (m : Byte) : List Request := [.cpu (cpuWord b true b.mirrBase m)]

/-- `BOOT`: CONSTRUCT, then POWER (R91). -/
def boot : List Request := [.host 0 [], .host 1 []]

/-! ### Words as bytes -/

/-- A well-formed image whose every byte is 0: the operand of zeros that the host's table words give to
RESTORE (notes/assumptions/8.md). -/
def zeroImage (b : Board) : Image :=
  [⟨b.idPrg, 1, []⟩, ⟨b.idMirr, 1, []⟩, ⟨b.idRam, ramSize, []⟩]
    ++ (if b.hasChrRam then [⟨b.idChr, ramSize, []⟩] else [])

/-- A bus request of a word that has no bit above its format's length. -/
def fitting (n : Nat) (request : Nat → Request) (t : Nat) : Except DecodeError Request :=
  if t < 2 ^ (n + 9) then .ok (request t) else .error .strayBits

/-- The request that bytes spell, least significant byte first: one byte is a `HOST` selector, three a `PPU`
word, four a `CPU` word (DESIGN CHOICE, notes/assumptions/8.md). -/
def requestOfBytes (b : Board) : List Byte → Except DecodeError Request
  | [x] => if x.toNat < 8 then .ok (.host (x.extractLsb' 0 3) (zeroImage b)) else .error .strayBits
  | [x, y, z] => fitting b.ppuAddrW .ppu (z ++ y ++ x).toNat
  | [x, y, z, u] => fitting b.addrW .cpu (u ++ z ++ y ++ x).toNat
  | _ => .error .badLength

/-- The decoder on bytes, total, rejecting by name. -/
def decodeBytes (b : Board) (bytes : List Byte) : Except DecodeError Instr :=
  match requestOfBytes b bytes with
  | .ok r => decode b r
  | .error e => .error e

/-- The low `nbits` bits of `w`, rounded up to whole bytes, least significant byte first. -/
def bytesOfWord (nbits w : Nat) : List Byte :=
  (List.range ((nbits + 7) / 8)).map fun k => BitVec.ofNat 8 (w >>> (8 * k))

/-- The operation the decoder reads, on the board of `State.reset`, from a table word. -/
def decodeTableWord (nbits w : Nat) : Option Instr :=
  match decodeBytes Board.default (bytesOfWord nbits w) with
  | .ok i => some i
  | .error _ => none

end Sys2Proof
end

