-- ==== Sys2Proof/Machine/Mapping.lean ====
section
/-! DEFINITION. The mapping table, the pure function SYNC computes it by, and the window lookups
(42_mapping_sync_and_lookup.md). -/

namespace Sys2Proof

/-- What the single 8 KB graphics window shows (R32). -/
inductive ChrWindow where
  | chrRamBank0  -- CHR_RAM_BANK0
  | notDriven    -- NOT_DRIVEN
  deriving DecidableEq, Repr

/-- The mirroring mode (R32): horizontal, vertical, first and second single-screen variant. -/
inductive Mirroring where
  | h
  | v
  | s0
  | s1
  deriving DecidableEq, Repr

/-- `MAP`, the mapping table (R32). -/
structure Mapping where
  prgLo : BitVec 5
  prgHi : BitVec 5
  chr : ChrWindow
  mirror : Mirroring
  deriving DecidableEq, Repr

/-- The reduction of a bank index to the banks that exist: `index & (PRG_BANKS - 1)` (R138). -/
def Board.reduceBank (b : Board) (index : BitVec 5) : BitVec 5 := index &&& BitVec.ofNat 5 (b.prgBanks - 1)

/-- The bank index SYNC takes for the lower window before the reduction (R136, R139). -/
def Board.selectBank (b : Board) (prg : BitVec 5) : BitVec 5 :=
  match b.shift with
  | .appendHigh => prg
  | .appendHighShiftRight => b.prgSelectB[prg.toNat]

/-- The single-screen variant that bit 0 of `MIRR` selects (R142). -/
def singleScreen (mirr : BitVec 2) : Mirroring := if mirr.getLsbD 0 then .s1 else .s0

/-- The mode for a `CFG` that is none of the four codes, under `MAPPER_CONTROLLED`: "exactly as for `CFG_MA`"
(R143). A board with such a code and the fallback `REFUSE` never gets past CONSTRUCT
(notes/assumptions/9.md). -/
def fallbackMode (mirr : BitVec 2) : Mirroring := singleScreen mirr

/-- The mirroring mode (R142, R143). -/
def Board.mirrorMode (b : Board) (mirr : BitVec 2) : Mirroring :=
  if b.cfg = b.cfgH then .h
  else if b.cfg = b.cfgV then .v
  else if b.cfg = b.cfgMA ∨ b.cfg = b.cfgMB then singleScreen mirr
  else fallbackMode mirr

/-- The mapping SYNC assigns (R135): "pure function: register file + static configuration". -/
def syncMap (b : Board) (prg : BitVec 5) (mirr : BitVec 2) : Mapping where
  prgLo := b.reduceBank (b.selectBank prg)
  prgHi := b.reduceBank 0b11111
  chr := if b.hasChrRam then .chrRamBank0 else .notDriven
  mirror := b.mirrorMode mirr

/-- The `ROM` index a program window shows: `bank * 16384 + offset` (R146). -/
def romIndex (bank : BitVec 5) (off : BitVec 14) : Nat := bank.toNat * bankSize + off.toNat

/-- `chr_lookup`: the `CHR` index the graphics window shows, "undefined" when it is not driven (R148). -/
def chrLookup (m : Mapping) (off : BitVec 13) : Option Nat :=
  match m.chr with
  | .chrRamBank0 => some off.toNat
  | .notDriven => none

/-- `nt_half`: the half of video RAM that PPU address `0x2000 + pa` goes to (R149). -/
def ntHalf (mode : Mirroring) (pa : BitVec 13) : BitVec 1 :=
  match mode with
  | .h => BitVec.ofBool (pa.getLsbD 11)
  | .v => BitVec.ofBool (pa.getLsbD 10)
  | .s0 => 0
  | .s1 => 1

/-- The byte of the console's 2048-byte video RAM that PPU address `0x2000 + pa` reaches:
`nt_half(MAP.mirror, PA) * 1024 + PA[9:0]` (R149). The video RAM itself "is the console's" (R169). -/
def videoRamIndex (mode : Mirroring) (pa : BitVec 13) : Nat := (ntHalf mode pa).toNat * 1024 + pa.toNat % 1024

/-- Where a CPU read goes (R150). -/
inductive Location where
  | ram (i : Nat)
  | rom (i : Nat)
  | notMine
  deriving DecidableEq, Repr

/-- `cpu_lookup`, "the combined CPU-side lookup" (R150), on any address of the bus. -/
def cpuLookup (b : Board) (m : Mapping) (a : Nat) : Location :=
  if b.inRam a then .ram (a - b.ramBase)
  else if b.inPrgLo a then .rom (m.prgLo.toNat * bankSize + (a - b.prgLoBase))
  else if b.inPrgHi a then .rom (m.prgHi.toNat * bankSize + (a - b.prgHiBase))
  else .notMine

end Sys2Proof
end

