-- ==== Sys2Proof/Machine/Memory.lean ====
section
/-! DEFINITION. Reading and writing one byte of a memory (20_memory.md R50: every access is one byte), and
the canonical form. -/

namespace Sys2Proof

/-- What a byte that the list does not name reads as (DESIGN CHOICE, notes/assumptions/2.md). -/
def Memory.unlisted : Byte := 0

/-- Byte `a` of a memory. -/
def Memory.read : Memory → Nat → Byte
  | [], _ => Memory.unlisted
  | (k, v) :: m, a => if k = a then v else Memory.read m a

/-- Store one byte, keeping the canonical form: the cells stay sorted, and storing what an unlisted byte
reads as takes the cell out. -/
def Memory.write : Memory → Nat → Byte → Memory
  | [], a, v => if v = Memory.unlisted then [] else [(a, v)]
  | (k, w) :: m, a, v =>
    if a < k then (if v = Memory.unlisted then (k, w) :: m else (a, v) :: (k, w) :: m)
    else if a = k then (if v = Memory.unlisted then m else (a, v) :: m)
    else (k, w) :: Memory.write m a v

/-- The canonical form from index `lo` on: indices strictly rising, below `size`, and no cell that holds
what an unlisted byte reads as. -/
def Memory.wfFrom (size : Nat) : Nat → Memory → Bool
  | _, [] => true
  | lo, (k, v) :: m => decide (lo ≤ k) && decide (k < size) && decide (v ≠ Memory.unlisted) && Memory.wfFrom size (k + 1) m

/-- The canonical form of a memory of `size` bytes. -/
def Memory.wf (size : Nat) (m : Memory) : Bool := Memory.wfFrom size 0 m

/-- A memory of one byte (the persisted form of a register, R25, R26). -/
def Memory.single (v : Byte) : Memory := Memory.write [] 0 v

/-- The bytes of a memory of `size` bytes in ascending index order (R51, R180). -/
def Memory.toBytes (size : Nat) (m : Memory) : List Byte := (List.range size).map (Memory.read m)

end Sys2Proof
end

