-- ==== Sys2Proof/Machine/Registry.lean ====
section
/-! DEFINITION. What a board registers with the host: its snapshot regions (44_lifecycle.md R177) and its entry in the
debug/cheat registry (R178; 60_exceptions.md R210). -/

namespace Sys2Proof

/-- One entry of the host's snapshot registry: an identifier and a size in bytes (R177). -/
structure RegionDecl where
  id : Ident
  size : Nat
  deriving DecidableEq, Repr

/-- The regions a board registers, in registration order (R177). -/
def Board.regions (b : Board) : List RegionDecl :=
  [⟨b.idPrg, 1⟩, ⟨b.idMirr, 1⟩, ⟨b.idRam, ramSize⟩] ++ (if b.hasChrRam then [⟨b.idChr, ramSize⟩] else [])

end Sys2Proof

namespace Sys2Proof.Machine

/-- The scratch RAM's entry in the debug/cheat registry: offset and size (R178, R210). -/
structure CheatEntry where
  offset : Nat
  size : Nat
  deriving DecidableEq, Repr

/-- The entry POWER makes in the debug/cheat registry (R178). -/
def cheatEntry (b : Board) : CheatEntry := ⟨b.cheatOffset, b.cheatSize⟩

end Sys2Proof.Machine
end

