-- ==== Sys2Proof/Machine/State.lean ====
section
/-! DEFINITION. The state of one board instance (10_state.md R20), the run around it (00_scope.md R15), the
reasons a step can stop, and the machine right after reset. -/

namespace Sys2Proof.Machine

/-- The lifecycle phase (R36). -/
inductive Phase where
  | none    -- NONE: no board object
  | built   -- BUILT: CONSTRUCT has run
  | live    -- LIVE: POWER has run at least once
  | closed  -- CLOSED: CLOSE has run
  deriving DecidableEq, Repr

/-- What the last step gave back: the byte of a read (R160 to R162, R165, R166, R168), the output bit of NTSEL
(R169), the image of SAVE (R180), or nothing. The spec's word is "result"; it is an output, no state of the
block (notes/assumptions/6.md). -/
inductive Reply where
  | none
  | byte (v : Byte)
  | half (h : BitVec 1)
  | image (img : Image)
  deriving DecidableEq, Repr

structure State where
  /-- What the launch fixes: the parameters, `ROM`, `RAM_INIT`, `CHR_INIT` (R8, R15(a), R31). -/
  launch : Launch
  /-- `PRG`, the program-bank register (R24). -/
  prg : BitVec 5
  /-- `MIRR`, the mirroring register, kept below `2 ^ MIRR_BITS` (R26, R34). -/
  mirr : BitVec 2
  /-- `RAM`, the scratch RAM, indices 0 to 8191 (R29). -/
  ram : Memory
  /-- `CHR`, the graphics RAM, indices 0 to 8191, when `HAS_CHR_RAM` (R30). -/
  chr : Memory
  /-- `MAP`, the mapping table (R32). -/
  map : Mapping
  /-- `own_ram` (R35). -/
  ownRam : Bool
  /-- `own_chr` (R35). -/
  ownChr : Bool
  /-- `phase` (R36). -/
  phase : Phase
  /-- What CONSTRUCT has registered with the host's snapshot mechanism, in order (R177). -/
  regions : List RegionDecl
  /-- What POWER has registered with the debug/cheat subsystem (R178). -/
  cheat : Option CheatEntry
  /-- The steps of the run that are still to come, next first (R15(a), (c)). -/
  pending : List Request
  /-- What the last step gave back (the model's own output field). -/
  reply : Reply
  /-- How many draws of `OPEN_BUS` have been made (the model's own counter; R165, R168). -/
  draws : Nat
  deriving DecidableEq, Repr

/-- The block has no fault of its own (R200); the model's one fault guards plain data. -/
inductive Fault where
  /-- RDLO and RDHI raise it for a `ROM` index at or beyond `PRG_BANKS * 16384`, a byte the spec says does
  not exist (R10, R31). By R146 no state the rules reach gets there. Safe: the model stops. -/
  | romOutOfRange
  deriving DecidableEq, Repr

/-- The reasons the model gives an operation no meaning: the closed list of R201, with its code numbers. Each
is safe: "the model saying less than the chip does". -/
inductive Refusal where
  /-- No meaning written for the instruction; exec's arms alone raise it, and none does. Safe. -/
  | notModelled (mnemonic : String)
  /-- Code 1. POWER and CLOSE raise it in phase `NONE`. Safe. -/
  | notBuilt
  /-- Code 2. CONSTRUCT raises it in phases `BUILT` and `LIVE`. Safe. -/
  | alreadyBuilt
  /-- Code 3. Every bus transaction, SAVE and RESTORE raise it in phases `NONE` and `BUILT`. Safe. -/
  | notLive
  /-- Code 4. Every operation but CLOSE raises it in phase `CLOSED`. Safe. -/
  | closed
  /-- Code 5. RESTORE raises it for an image that is not well formed (R182). Safe. -/
  | badImage
  /-- Code 6. CONSTRUCT raises it for `CFG` out of domain under `CFG_FALLBACK = REFUSE` (R143). Safe. -/
  | badConfig
  /-- Code 7. CONSTRUCT raises it for `PRG_BANKS` not one of 1, 2, 4, 8, 16, 32 (R138). Safe. -/
  | badPrgSize
  /-- Code 8. CONSTRUCT raises it for address parameters that break R53 or R55. Safe. -/
  | badMap
  /-- Code 9. The `HOST` decoder raises it, in step, for selectors 5, 6 and 7 (R82). Safe. -/
  | invalidHostOp
  deriving DecidableEq, Repr

/-- The parameters of the state's board. -/
abbrev State.board (s : State) : Board := s.launch.board

/-- The start of a run (R15(b)): `phase = NONE`. "Every other field is then without meaning until CONSTRUCT
gives it one": `map` is any mapping (R43), the rest is empty. -/
def State.start (l : Launch) (m : Mapping) (steps : List Request) : State where
  launch := l
  prg := 0
  mirr := 0
  ram := []
  chr := []
  map := m
  ownRam := false
  ownChr := false
  phase := .none
  regions := []
  cheat := none
  pending := steps
  reply := .none
  draws := 0

/-- The state "fresh live" (R15(b)): what CONSTRUCT then POWER reach from the start (R44 to R46). -/
def State.freshLive (l : Launch) (steps : List Request) : State where
  launch := l
  prg := 0
  mirr := 0
  ram := l.ramInit
  chr := if l.board.hasChrRam then l.chrInit else []
  map := syncMap l.board 0 0
  ownRam := true
  ownChr := l.board.hasChrRam
  phase := .live
  regions := l.board.regions
  cheat := some (cheatEntry l.board)
  pending := steps
  reply := .none
  draws := 0

/-- The machine right after power-on/reset: "fresh live" on the default launch, nothing pending
(notes/assumptions/1.md). -/
def State.reset : State := State.freshLive Launch.default []

end Sys2Proof.Machine
end

