-- ==== Sys2Proof/Machine/Flags.lean ====
section
/-! DEFINITION. There is nothing to define: "The block has no status flags, condition codes or predicates. No
operation records an error, an overflow or a completion" (10_state.md R23). -/
end

