-- ==== Sys2Proof/Machine/Operands.lean ====
section
/-! DEFINITION. The operands of the write decoders and the update of the program-bank register
(30_encoding.md R85, 40_program_bank_write.md R110, R117). -/

namespace Sys2Proof

/-- `b = D[0]`, the operand of PRGW (R85). -/
def prgBit (d : Byte) : BitVec 1 := d.extractLsb' 0 1

/-- `m = D[MIRR_BITS-1:0]`, the operand of MIRW (R85). -/
def mirrField (w : MirrBits) (d : Byte) : BitVec 2 :=
  match w with
  | .one => (d.extractLsb' 0 1).zeroExtend 2
  | .two => d.extractLsb' 0 2

/-- `(b << 4) | (PRG >> 1)`, the update of both shift disciplines (R110, R111). -/
def shiftIn (b : BitVec 1) (prg : BitVec 5) : BitVec 5 := (b.zeroExtend 5 <<< 4) ||| (prg >>> 1)

end Sys2Proof
end

