-- ==== Sys2Proof/Machine/Ops.lean ====
section
/-! DEFINITION. The shared operations: fetching the next step of a run, admission by lifecycle phase, the named
updates of the state, reads, and the snapshot image. There is no exception to take and none to return from
(60_exceptions.md R200, R206, R207). -/

namespace Sys2Proof.Machine

/-! ### The run -/

/-- The next listed step, and the state with it taken off the list (R15(c)). -/
def State.fetch (s : State) : Option (Request × State) :=
  match s.pending with
  | [] => none
  | r :: rest => some (r, { s with pending := rest })

/-- The refusal of a request that spells no operation (R201 code 9). -/
def refusalOf : DecodeError → Refusal
  | .invalidHostOp => .invalidHostOp
  | .badLength => .invalidHostOp
  | .strayBits => .invalidHostOp

/-! ### Admission -/

/-- The rows of the admission table (R175). -/
inductive OpClass where
  | construct
  | power
  | bus
  | save
  | restore
  | close
  deriving DecidableEq, Repr

/-- The admission table (R175): `none` is "ok", and a refusal carries the reason named there. -/
def admission : OpClass → Phase → Option Refusal
  | .construct, .none => none
  | .construct, .built => some .alreadyBuilt
  | .construct, .live => some .alreadyBuilt
  | .construct, .closed => some .closed
  | .power, .none => some .notBuilt
  | .power, .built => none
  | .power, .live => none
  | .power, .closed => some .closed
  | .bus, .none => some .notLive
  | .bus, .built => some .notLive
  | .bus, .live => none
  | .bus, .closed => some .closed
  | .save, .none => some .notLive
  | .save, .built => some .notLive
  | .save, .live => none
  | .save, .closed => some .closed
  | .restore, .none => some .notLive
  | .restore, .built => some .notLive
  | .restore, .live => none
  | .restore, .closed => some .closed
  | .close, .none => some .notBuilt
  | .close, .built => none
  | .close, .live => none
  | .close, .closed => none

/-- Run an operation if its class is admitted in the state's phase, else refuse it by the table's reason. -/
def whenAdmitted (c : OpClass) (s : State) (run : Host.Outcome State Fault Refusal) : Host.Outcome State Fault Refusal :=
  match admission c s.phase with
  | none => run
  | some r => .refused r

/-! ### Updates -/

/-- The step gives back `r`. -/
def State.answer (s : State) (r : Reply) : State := { s with reply := r }

/-- `PRG <- v`. -/
def State.putPrg (s : State) (v : BitVec 5) : State := { s with prg := v }

/-- `MIRR <- v`. -/
def State.putMirr (s : State) (v : BitVec 2) : State := { s with mirr := v }

/-- `RAM[i] <- v` (R163). -/
def State.putRam (s : State) (i : Nat) (v : Byte) : State := { s with ram := s.ram.write i v }

/-- `CHR[i] <- v` (R167). -/
def State.putChr (s : State) (i : Nat) (v : Byte) : State := { s with chr := s.chr.write i v }

/-- `SYNC()`: recompute the mapping table from the registers and the parameters, and write nothing else
(R135, R145). -/
def State.sync (s : State) : State := { s with map := syncMap s.board s.prg s.mirr }

/-- One more draw of `OPEN_BUS` has been made. -/
def State.countDraw (s : State) : State := { s with draws := s.draws + 1 }

/-- What CONSTRUCT writes once its requirements hold (R176). -/
def State.build (s : State) : State :=
  { s with
    prg := 0
    mirr := 0
    ram := s.launch.ramInit
    ownRam := true
    chr := if s.board.hasChrRam then s.launch.chrInit else s.chr
    ownChr := s.board.hasChrRam
    regions := s.board.regions
    phase := .built }

/-- What POWER does after SYNC (R178): the handlers are installed, which is the change of `phase` to `LIVE`, and
the scratch RAM is registered with the debug/cheat subsystem. -/
def State.goLive (s : State) : State := { s with cheat := some (cheatEntry s.board), phase := .live }

/-- What CLOSE does (R183). The contents of a released region "no longer exist": the list is emptied
(notes/assumptions/10.md). -/
def State.release (s : State) : State :=
  { s with
    ram := if s.ownRam then [] else s.ram
    ownRam := false
    chr := if s.ownChr then [] else s.chr
    ownChr := false
    phase := .closed }

/-! ### Reads -/

/-- Answer with byte `i` of program memory (R161, R162); an index that does not exist is a fault. -/
def readRom (i : Nat) (s : State) : Host.Outcome State Fault Refusal :=
  if i < s.board.romSize then .next (s.answer (.byte (s.launch.rom.read i))) else .fault .romOutOfRange

/-- A read the block does not answer: the reply is a fresh draw (R165, R168). -/
def State.openBusRead (s : State) : State := s.countDraw.answer (.byte (Config.openBus s.draws))

/-! ### Snapshots -/

/-- The image SAVE takes, one region for each of R177, in that order (R180). -/
def saveImage (s : State) : Image :=
  [ ⟨s.board.idPrg, 1, Memory.single (s.prg.zeroExtend 8)⟩,
    ⟨s.board.idMirr, 1, Memory.single (s.mirr.zeroExtend 8)⟩,
    ⟨s.board.idRam, ramSize, s.ram⟩ ]
    ++ (if s.board.hasChrRam then [⟨s.board.idChr, ramSize, s.chr⟩] else [])

/-- The bytes of the region at position `k` of an image. In a well-formed image positions 0 to 3 hold `ID_PRG`,
`ID_MIRR`, `ID_RAM`, `ID_CHR` (R177, R182). -/
def regionBytes (img : Image) (k : Nat) : Memory :=
  match img[k]? with
  | some r => r.bytes
  | none => []

/-- "An image is well-formed for a board when it has exactly the regions of rule R177 ..., in that order, each
with its identifier and its exact size, and its register bytes are in range" (R182). That each region's bytes
are in canonical form says that they are bytes 0 to `size - 1` and nothing more (notes/assumptions/7.md). -/
def imageOk (b : Board) (img : Image) : Bool :=
  decide (img.map (fun r => (⟨r.id, r.size⟩ : RegionDecl)) = b.regions)
    && img.all (fun r => r.bytes.wf r.size)
    && decide (((regionBytes img 0).read 0).toNat < 32)
    && decide (((regionBytes img 1).read 0).toNat < 2 ^ b.mirrBits.width)

/-- The registers and regions of a well-formed image, loaded (R181, less its SYNC). -/
def State.load (s : State) (img : Image) : State :=
  { s with
    prg := ((regionBytes img 0).read 0).extractLsb' 0 5
    mirr := mirrField s.board.mirrBits ((regionBytes img 1).read 0)
    ram := regionBytes img 2
    chr := if s.board.hasChrRam then regionBytes img 3 else s.chr }

end Sys2Proof.Machine
end

