-- ==== Sys2Proof/Machine/CpuBus.lean ====
section
/-! DEFINITION. The other CPU-bus transactions (43_bus_accesses.md, R160 to R165). -/

namespace Sys2Proof.Machine

/-- RDRAM (R160): `result <- RAM[A - RAM_BASE]`. -/
def execRdram (off : BitVec 13) (s : State) : Host.Outcome State Fault Refusal :=
  whenAdmitted .bus s (.next (s.answer (.byte (s.ram.read off.toNat))))

/-- RDLO (R161): `result <- ROM[MAP.prg_lo * 16384 + (A - PRG_LO_BASE)]`. -/
def execRdlo (off : BitVec 14) (s : State) : Host.Outcome State Fault Refusal :=
  whenAdmitted .bus s (readRom (romIndex s.map.prgLo off) s)

/-- RDHI (R162): `result <- ROM[MAP.prg_hi * 16384 + (A - PRG_HI_BASE)]`. -/
def execRdhi (off : BitVec 14) (s : State) : Host.Outcome State Fault Refusal :=
  whenAdmitted .bus s (readRom (romIndex s.map.prgHi off) s)

/-- RAMW (R163): `RAM[A - RAM_BASE] <- D`. -/
def execRamw (off : BitVec 13) (v : Byte) (s : State) : Host.Outcome State Fault Refusal :=
  whenAdmitted .bus s (.next ((s.putRam off.toNat v).answer .none))

/-- WNOP (R164): no effect. -/
def execWnop (_a : Nat) (_d : Byte) (s : State) : Host.Outcome State Fault Refusal :=
  whenAdmitted .bus s (.next (s.answer .none))

/-- EXTW (R165): no effect. -/
def execExtw (_a : Nat) (_d : Byte) (s : State) : Host.Outcome State Fault Refusal :=
  whenAdmitted .bus s (.next (s.answer .none))

/-- EXTR (R165): `result <- draw(byte)`. -/
def execExtr (_a : Nat) (s : State) : Host.Outcome State Fault Refusal :=
  whenAdmitted .bus s (.next s.openBusRead)

end Sys2Proof.Machine
end

