-- ==== Sys2Proof/Machine/Lifecycle.lean ====
section
/-! DEFINITION. The host operations (44_lifecycle.md). -/

namespace Sys2Proof.Machine

/-- CONSTRUCT (R176). The requirements are tried in the order of its `require` lines (R205). -/
def execConstruct (s : State) : Host.Outcome State Fault Refusal :=
  whenAdmitted .construct s
    (if !s.board.banksOk then .refused .badPrgSize
     else if !s.board.cfgOk then .refused .badConfig
     else if !s.board.mapOk then .refused .badMap
     else .next (s.build.answer .none))

/-- POWER (R178): SYNC, then the handlers and the debug/cheat registration. -/
def execPower (s : State) : Host.Outcome State Fault Refusal :=
  whenAdmitted .power s (.next (s.sync.goLive.answer .none))

/-- SAVE (R180): the result is the image; "no state changes". -/
def execSave (s : State) : Host.Outcome State Fault Refusal :=
  whenAdmitted .save s (.next (s.answer (.image (saveImage s))))

/-- RESTORE (R181): load a well-formed image, then SYNC. -/
def execRestore (img : Image) (s : State) : Host.Outcome State Fault Refusal :=
  whenAdmitted .restore s
    (if imageOk s.board img then .next ((s.load img).sync.answer .none) else .refused .badImage)

/-- CLOSE (R183): release what is still owned. -/
def execClose (s : State) : Host.Outcome State Fault Refusal :=
  whenAdmitted .close s (.next (s.release.answer .none))

end Sys2Proof.Machine
end

