-- ==== Sys2Proof/Machine/MirrorControl.lean ====
section
/-! DEFINITION. The mirroring write decoder (41_mirroring_write.md) and the internal operation SYNC
(42_mapping_sync_and_lookup.md R135). -/

namespace Sys2Proof.Machine

/-- MIRW (R125): `MIRR <- D[MIRR_BITS-1:0]`, then SYNC. -/
def execMirw (_off : BitVec 13) (d : Byte) (s : State) : Host.Outcome State Fault Refusal :=
  whenAdmitted .bus s (.next (((s.putMirr (mirrField s.board.mirrBits d)).sync).answer .none))

/-- SYNC (R135). It is "run only inside" other operations, which have been admitted, so it checks no phase, and
it gives nothing back. -/
def execSync (s : State) : Host.Outcome State Fault Refusal := .next s.sync

end Sys2Proof.Machine
end

