-- ==== Sys2Proof/Machine/PpuBus.lean ====
section
/-! DEFINITION. The PPU-bus transactions (43_bus_accesses.md, R166 to R169). -/

namespace Sys2Proof.Machine

/-- A read of the graphics window through `chr_lookup` (R148, R166); where the window is not driven "the access
is CHREXT" (R148). -/
def State.chrWindowRead (s : State) (off : BitVec 13) : State :=
  match chrLookup s.map off with
  | some i => s.answer (.byte (s.chr.read i))
  | none => s.openBusRead

/-- A write of the graphics window through `chr_lookup` (R148, R167); where the window is not driven "the access
is CHREXT" (R148). -/
def State.chrWindowWrite (s : State) (off : BitVec 13) (v : Byte) : State :=
  match chrLookup s.map off with
  | some i => (s.putChr i v).answer .none
  | none => s.answer .none

/-- CHRRD (R166): `result <- CHR[PA[12:0]]`. -/
def execChrrd (off : BitVec 13) (s : State) : Host.Outcome State Fault Refusal :=
  whenAdmitted .bus s (.next (s.chrWindowRead off))

/-- CHRWR (R167): `CHR[PA[12:0]] <- D`. -/
def execChrwr (off : BitVec 13) (v : Byte) (s : State) : Host.Outcome State Fault Refusal :=
  whenAdmitted .bus s (.next (s.chrWindowWrite off v))

/-- CHREXT (R168): no effect on the block; a read gives back a draw. So too above the PPU-bus map (R56, R57). -/
def execChrext (_pa : Nat) (acc : Access) (s : State) : Host.Outcome State Fault Refusal :=
  whenAdmitted .bus s (.next (match acc with | .read => s.openBusRead | .write _ => s.answer .none))

/-- NTSEL (R169): the one output bit `nt_half(MAP.mirror, PA)`, for a read and a write alike. -/
def execNtsel (pa : BitVec 13) (_acc : Access) (s : State) : Host.Outcome State Fault Refusal :=
  whenAdmitted .bus s (.next (s.answer (.half (ntHalf s.map.mirror pa))))

end Sys2Proof.Machine
end

