-- ==== Sys2Proof/Machine/ProgramBank.lean ====
section
/-! DEFINITION. The program-bank write decoder (40_program_bank_write.md). -/

namespace Sys2Proof.Machine

/-- The common body of the two shift disciplines: fold bit 0 of the data into `PRG`, then SYNC (R110, R111,
R114). They differ only in how SYNC turns `PRG` into a bank, which is the board's. -/
def State.programBankWrite (s : State) (d : Byte) : State :=
  ((s.putPrg (shiftIn (prgBit d) s.prg)).sync).answer .none

/-- PRGW.AH (R110). -/
def execPrgwAh (_off : BitVec 13) (d : Byte) (s : State) : Host.Outcome State Fault Refusal :=
  whenAdmitted .bus s (.next (s.programBankWrite d))

/-- PRGW.AHSR (R111). -/
def execPrgwAhsr (_off : BitVec 13) (d : Byte) (s : State) : Host.Outcome State Fault Refusal :=
  whenAdmitted .bus s (.next (s.programBankWrite d))

end Sys2Proof.Machine
end

