-- ==== Sys2Proof/Machine/Dispatch.lean ====
section
/-! DEFINITION. One arm per operation (30_encoding.md R92). -/

namespace Sys2Proof.Machine

def exec (i : Instr) (s : State) : Host.Outcome State Fault Refusal :=
  match i with
  | .prgwAh off d => Sys2Proof.Machine.execPrgwAh off d s
  | .prgwAhsr off d => Sys2Proof.Machine.execPrgwAhsr off d s
  | .mirw off d => Sys2Proof.Machine.execMirw off d s
  | .ramw off v => Sys2Proof.Machine.execRamw off v s
  | .wnop a d => Sys2Proof.Machine.execWnop a d s
  | .extw a d => Sys2Proof.Machine.execExtw a d s
  | .rdram off => Sys2Proof.Machine.execRdram off s
  | .rdlo off => Sys2Proof.Machine.execRdlo off s
  | .rdhi off => Sys2Proof.Machine.execRdhi off s
  | .extr a => Sys2Proof.Machine.execExtr a s
  | .chrrd off => Sys2Proof.Machine.execChrrd off s
  | .chrwr off v => Sys2Proof.Machine.execChrwr off v s
  | .chrext pa acc => Sys2Proof.Machine.execChrext pa acc s
  | .ntsel pa acc => Sys2Proof.Machine.execNtsel pa acc s
  | .construct => Sys2Proof.Machine.execConstruct s
  | .power => Sys2Proof.Machine.execPower s
  | .save => Sys2Proof.Machine.execSave s
  | .restore img => Sys2Proof.Machine.execRestore img s
  | .close => Sys2Proof.Machine.execClose s
  | .sync => Sys2Proof.Machine.execSync s

end Sys2Proof.Machine
end

