-- ==== Sys2Proof/Machine/Step.lean ====
section
/-! DEFINITION. One step of a run (00_scope.md R11, R15). -/

namespace Sys2Proof.Machine

/-- Take the next listed step, decode it on the board, run it. With nothing listed nothing happens: "the block
never takes a step of its own" and "does not halt, trap or stop" (R15(c), (d)). -/
def step (s : State) : Host.Outcome State Fault Refusal :=
  match s.fetch with
  | none => .next s
  | some (r, s') =>
    match decode s.board r with
    | .ok i => exec i s'
    | .error e => .refused (refusalOf e)

/-- `s` with the table word put first in the list of steps, where `step` takes its next operation (bytes that
are no request leave `s` as it is). Nothing else changes. -/
def State.withFetchWord (s : State) (nbits w : Nat) : State :=
  match requestOfBytes s.board (bytesOfWord nbits w) with
  | .ok r => { s with pending := r :: s.pending }
  | .error _ => s

end Sys2Proof.Machine
end

