-- ==== Sys2Proof/Safety.lean ====
section
/-! DEFINITION. The terms the statements are made in: the invariant of the block, runs of several operations,
and what "changes nothing" means. -/

namespace Sys2Proof

/-- A bus transaction: format `CPU` or `PPU` (R208). -/
def Instr.isBus : Instr → Bool
  | .prgwAh _ _ | .prgwAhsr _ _ | .mirw _ _ | .ramw _ _ | .wnop _ _ | .extw _ _ => true
  | .rdram _ | .rdlo _ | .rdhi _ | .extr _ => true
  | .chrrd _ | .chrwr _ _ | .chrext _ _ | .ntsel _ _ => true
  | .construct | .power | .save | .restore _ | .close | .sync => false

/-- The operations R170 names: reads and undecoded writes. -/
def Instr.isReadOrUndecoded : Instr → Bool
  | .rdram _ | .rdlo _ | .rdhi _ | .wnop _ _ | .extw _ _ | .extr _ => true
  | .chrrd _ | .chrext _ _ | .ntsel _ _ => true
  | .prgwAh _ _ | .prgwAhsr _ _ | .mirw _ _ | .ramw _ _ | .chrwr _ _ => false
  | .construct | .power | .save | .restore _ | .close | .sync => false

/-- The operations that end with SYNC, and SYNC itself (R144). -/
def Instr.runsSync : Instr → Bool
  | .prgwAh _ _ | .prgwAhsr _ _ | .mirw _ _ | .power | .restore _ | .sync => true
  | .ramw _ _ | .wnop _ _ | .extw _ _ | .rdram _ | .rdlo _ | .rdhi _ | .extr _ => false
  | .chrrd _ | .chrwr _ _ | .chrext _ _ | .ntsel _ _ | .construct | .save | .close => false

/-- A write to the program-bank-control range (R110, R111). -/
def Instr.isPrgw : Instr → Bool
  | .prgwAh _ _ | .prgwAhsr _ _ => true
  | .mirw _ _ | .ramw _ _ | .wnop _ _ | .extw _ _ | .rdram _ | .rdlo _ | .rdhi _ | .extr _ => false
  | .chrrd _ | .chrwr _ _ | .chrext _ _ | .ntsel _ _ => false
  | .construct | .power | .save | .restore _ | .close | .sync => false

/-- The data byte of a program-bank write. -/
def Instr.prgwData : Instr → Option Byte
  | .prgwAh _ d | .prgwAhsr _ d => some d
  | .mirw _ _ | .ramw _ _ | .wnop _ _ | .extw _ _ | .rdram _ | .rdlo _ | .rdhi _ | .extr _ => none
  | .chrrd _ | .chrwr _ _ | .chrext _ _ | .ntsel _ _ => none
  | .construct | .power | .save | .restore _ | .close | .sync => none

/-- The bits 0 of data bytes as a number, the first byte's the least significant (R112). -/
def bitsValue : List Byte → Nat
  | [] => 0
  | d :: ds => d.toNat % 2 + 2 * bitsValue ds

/-- The address parameters and the bus widths are the defaults of R8 (R54), for which spec/opcode_table.json is written;
the other parameters are any. -/
def defaultAddresses (b : Board) : Prop :=
  b.ramBase = 0x6000 ∧ b.mirrBase = 0x8000 ∧ b.prgcBase = 0xE000 ∧ b.prgLoBase = 0x8000
    ∧ b.prgHiBase = 0xC000 ∧ b.readBase = 0x6000 ∧ b.readTop = 0xFFFF
    ∧ b.addrW = 16 ∧ b.ppuAddrW = 14

end Sys2Proof

namespace Sys2Proof.Machine

/-- The phases in which a board exists and owns its memory. -/
def Phase.owning : Phase → Bool
  | .built => true
  | .live => true
  | .none => false
  | .closed => false

/-- What every state the rules reach satisfies. -/
structure Inv (s : State) : Prop where
  /-- The memories are in canonical form, each of its size (R29 to R31, R42). -/
  romWf : s.launch.rom.wf s.board.romSize = true
  ramInitWf : s.launch.ramInit.wf ramSize = true
  chrInitWf : s.launch.chrInit.wf ramSize = true
  ramWf : s.ram.wf ramSize = true
  chrWf : s.chr.wf ramSize = true
  /-- Graphics RAM is "present exactly when `HAS_CHR_RAM`" (R30). -/
  chrAbsent : s.board.hasChrRam = false → s.chr = []
  /-- The width invariant, for the register whose width is a parameter (R34). -/
  mirrWidth : s.mirr.toNat < 2 ^ s.board.mirrBits.width
  /-- A board that exists has parameters CONSTRUCT accepts (R176). -/
  accepted : s.phase.owning = true → s.board.accepted = true
  /-- The mapping invariant (R33). -/
  mapFresh : s.phase = .live → s.map = syncMap s.board s.prg s.mirr
  /-- The ownership markers (R35). -/
  ownRam : s.ownRam = s.phase.owning
  ownChr : s.ownChr = (s.phase.owning && s.board.hasChrRam)
  /-- The registrations (R177, R178). -/
  registered : s.phase ≠ .none → s.regions = s.board.regions
  cheated : s.phase = .live → s.cheat = some (cheatEntry s.board)

/-- Run operations one after the other, stopping at the first that does not answer a next state. -/
def execAll : List Instr → State → Host.Outcome State Fault Refusal
  | [], s => .next s
  | i :: is, s =>
    match exec i s with
    | .next t => execAll is t
    | .fault r => .fault r
    | .refused r => .refused r

/-- `t` is `s` but for what the step gave back and the count of draws: no state of the block (R20), nothing of
the launch, nothing of the run differs. -/
def sameBlock (s t : State) : Prop := t = { s with reply := t.reply, draws := t.draws }

end Sys2Proof.Machine
end

