-- ==== Sys2Proof/Certificates/Slice0/Obligations.lean ====
section
/-! DEFINITION. The statements for the provers. Each docstring names the rules of spec/ the statement rests on,
and the assumption log's entries where the spec marks a point as its own decision or the model chose. -/

open Sys2Proof Sys2Proof.Machine

/-! ### A step, and the words -/

/-- R11, R15(c), R83: a step runs the operation its first listed request decodes to, with that request taken off
the list.
The list of steps is the spec's decision D30, held as notes/assumptions/12.md says. -/
def Obligations.StepRunsDecodedOperation : Prop :=
  ∀ (s : State) (r : Request) (rest : List Request) (i : Instr),
    s.pending = r :: rest → decode s.board r = .ok i → step s = exec i { s with pending := rest }

/-- R15(c), (d), R22: with nothing listed nothing changes.
The list of steps is the spec's decision D30, held as notes/assumptions/12.md says. That a step past the end of
the list stutters is the model's choice. -/
def Obligations.StepWithNothingListedChangesNothing : Prop :=
  ∀ s : State, s.pending = [] → step s = .next s

/-- R82, R89, R201 code 9: selectors 5, 6 and 7 spell no operation.
The selector numbers and the refusal are the spec's decisions D13, D21. -/
def Obligations.UnknownHostSelectorIsRefused : Prop :=
  ∀ (s : State) (op : BitVec 3) (img : Image) (rest : List Request),
    s.pending = .host op img :: rest → 5 ≤ op.toNat → step s = .refused .invalidHostOp

/-- Words written out in 95_test_vectors.md (the default address map), one or more of each format.
Packing, widths and addresses are the spec's decisions D1, D2, D13. -/
def Obligations.WrittenOutWordsDecode : Prop :=
  decode Board.default (.cpu 0x1E00001) = .ok (.prgwAh 0 0x01) ∧
  decode Board.default (.cpu 0x1FFFF01) = .ok (.prgwAh 0x1FFF 0x01) ∧
  decode { Board.default with shift := .appendHighShiftRight } (.cpu 0x1E00001) = .ok (.prgwAhsr 0 0x01) ∧
  decode Board.default (.cpu 0x19ABC00) = .ok (.mirw 0x1ABC 0x00) ∧
  decode Board.default (.cpu 0x17FFF5A) = .ok (.ramw 0x1FFF 0x5A) ∧
  decode Board.default (.cpu 0x1DFFF01) = .ok (.wnop 0xDFFF 0x01) ∧
  decode Board.default (.cpu 0x0801000) = .ok (.rdlo 0x0010) ∧
  decode Board.default (.cpu 0x0FFFF00) = .ok (.rdhi 0x3FFF) ∧
  decode Board.default (.cpu 0x0400000) = .ok (.extr 0x4000) ∧
  decode Board.default (.ppu 0x5FFF77) = .ok (.chrwr 0x1FFF 0x77) ∧
  decode { Board.default with hasChrRam := false } (.ppu 0x401099) = .ok (.chrext 0x0010 (.write 0x99)) ∧
  decode Board.default (.ppu 0x340000) = .ok (.ntsel 0x1400 .read) ∧
  decode Board.default (.host 4 []) = .ok .close

/-- R80 to R86: every operation that is well formed for a board whose windows meet R53 and R55 has a word, and
that word decodes to it, every operand at every value. An address is one the bus has: below `2 ^ ADDR_W`, or
`2 ^ PPU_ADDR_W`.
The packing and the alignment are the spec's decisions D3, D13; the encoder is the model's
(notes/assumptions/8.md), and so is the packing at other widths (notes/assumptions/4.md). -/
def Obligations.EncodeThenDecode : Prop :=
  ∀ (b : Board) (i : Instr), b.mapOk = true → i.wellFormed b = true →
    ∃ r, encode b i = some r ∧ decode b r = .ok i

/-- R80 to R86: what a request decodes to is well formed for the board, and encodes to that request, but for
what the decoder does not read: the data of a read (R80), an image beside a selector other than RESTORE's (R82), and
bits above the word (notes/assumptions/4.md).
The packing and the alignment are the spec's decisions D3, D13; the encoder is the model's
(notes/assumptions/8.md), and so is the packing at other widths (notes/assumptions/4.md). -/
def Obligations.DecodeThenEncode : Prop :=
  ∀ (b : Board) (r : Request) (i : Instr), b.mapOk = true → decode b r = .ok i →
    i.wellFormed b = true ∧ encode b i = some (r.canonical b)

/-- R83, R84, R92: with the default addresses and bus widths, whatever the other parameters, exactly one row of
spec/opcode_table.json selects a request that decodes, and it is the row of its operation.
The default addresses and the packing are the spec's decisions D2, D13. -/
def Obligations.DecodeAgreesWithOpcodeTable : Prop :=
  ∀ (b : Board) (r : Request) (i : Instr), defaultAddresses b → decode b r = .ok i →
    ∃ row, opcodeTable.filter (Row.selects b r) = [row] ∧ row.op = i.op

/-- R87, R113(c), R130: in each control range the address and the data bits the decoder does not read make no
difference to the step.
R87, R113 and R130 are the spec's own inferences; the alignment is its decision D3. -/
def Obligations.ControlWritesReadOnlyTheirDataBits : Prop :=
  ∀ (s : State) (rest : List Request) (a a' : Nat) (d d' : Byte), s.board.mapOk = true →
    (s.board.inPrgc a = true → s.board.inPrgc a' = true → d.toNat % 2 = d'.toNat % 2 →
      step { s with pending := .cpu (cpuWord s.board true a d) :: rest } =
        step { s with pending := .cpu (cpuWord s.board true a' d') :: rest }) ∧
    (s.board.inMirr a = true → s.board.inMirr a' = true →
      d.toNat % 2 ^ s.board.mirrBits.width = d'.toNat % 2 ^ s.board.mirrBits.width →
      step { s with pending := .cpu (cpuWord s.board true a d) :: rest } =
        step { s with pending := .cpu (cpuWord s.board true a' d') :: rest })

/-- R80, R81, R90: the numbers of the trace notation, at the default bus widths it is written for.
The notation and the packing are the spec's decisions D13, D14. -/
def Obligations.TraceNotationNumbers : Prop :=
  ∀ b : Board, b.addrW = 16 → b.ppuAddrW = 14 →
    (∀ (a : Nat) (d : Byte), cpuWord b true a d = 0x1000000 + a * 0x100 + d.toNat ∧
      cpuWord b false a 0 = a * 0x100) ∧
    (∀ (pa : Nat) (d : Byte), ppuWord b true pa d = 0x400000 + pa * 0x100 + d.toNat ∧
      ppuWord b false pa 0 = pa * 0x100)

/-! ### The program-bank write decoder -/

/-- R110, R111, R114, R117: on a live board both program-bank writes complete; `PRG` becomes
`(D[0] << 4) | (PRG >> 1)`, which is `16 * D[0] + floor(PRG / 2)`; the mapping is SYNC's; the rest is unchanged. -/
def Obligations.ProgramBankWriteShiftsInBitZero : Prop :=
  ∀ (s : State) (off : BitVec 13) (d : Byte) (i : Instr), (i = .prgwAh off d ∨ i = .prgwAhsr off d) →
    s.phase = .live →
    ∃ t, exec i s = .next t ∧
      t.prg.toNat = 16 * (d.toNat % 2) + s.prg.toNat / 2 ∧
      t.map = syncMap s.board t.prg s.mirr ∧
      t = { s with prg := t.prg, map := t.map, reply := .none } ∧
      (∀ a, t.ram.read a = s.ram.read a) ∧ (∀ a, t.chr.read a = s.chr.read a)

/-- R116 and R226: after `j` writes (at most five) of the bits of `n`, least significant first, to a register
that held `P`, `PRG = n[j-1:0] ‖ P[4:j]`; after five, `PRG = n`. On the append-high board the lower window
shows that bank, reduced to the banks present.
R116 and R226 are the spec's own inferences; the reduction is its decision D11. -/
def Obligations.SerialLoadReachesAnyBank : Prop :=
  ∀ (s : State) (n : BitVec 5) (ws : List (BitVec 13 × Byte)), s.phase = .live → ws.length ≤ 5 →
    (∀ (j : Nat) (w : BitVec 13 × Byte), ws[j]? = some w → w.2.toNat % 2 = n.toNat / 2 ^ j % 2) →
    ∃ t, execAll (ws.map fun w => prgwFor s.board.shift w.1 w.2) s = .next t ∧
      t.prg.toNat = n.toNat % 2 ^ ws.length * 2 ^ (5 - ws.length) + s.prg.toNat / 2 ^ ws.length ∧
      (ws.length = 5 → t.prg = n) ∧
      (ws ≠ [] → s.board.shift = .appendHigh → s.board.banksOk = true →
        t.map.prgLo.toNat = t.prg.toNat % s.board.prgBanks)

/-- R112: through any operations but CONSTRUCT and RESTORE, `PRG` is the low five bits of the string of the bits
written in the program-bank-control range, newest first, over the prior register, shifted by their number;
every other operation between the writes leaves the accumulation alone.
The general form is the spec's own inference from R110. -/
def Obligations.ProgramBankAccumulation : Prop :=
  ∀ (is : List Instr) (s t : State), (∀ i ∈ is, i ≠ .construct ∧ ∀ img, i ≠ .restore img) →
    execAll is s = .next t →
    t.prg.toNat =
      (s.prg.toNat + 32 * bitsValue (is.filterMap Instr.prgwData)) / 2 ^ (is.filterMap Instr.prgwData).length

/-- R115, R137: no program-bank write (and no other operation) on a live board moves the upper program window,
which shows the last bank before and after. -/
def Obligations.UpperWindowNeverMoves : Prop :=
  ∀ (i : Instr) (s t : State), Inv s → s.phase = .live → exec i s = .next t →
    t.map.prgHi = s.map.prgHi ∧ t.map.prgHi.toNat = s.board.prgBanks - 1

/-- R91: LOADBANK, five listed writes at `PRGC_BASE`, "leaves `PRG = n` whatever `PRG` was before"; SETMIRR, one at
`MIRR_BASE`, leaves `MIRR = m[MIRR_BITS-1:0]`. Each takes its own steps off the list.
R90 and R91 are the spec's decision D14 and its own inference. -/
def Obligations.PseudoOperationsLoadTheRegisters : Prop :=
  ∀ (s : State) (rest : List Request), s.phase = .live → s.board.mapOk = true →
    (∀ n : BitVec 5, s.pending = loadBank s.board n ++ rest →
      ∃ t, Host.Core.run core 5 s = .next t ∧ t.prg = n ∧ t.mirr = s.mirr ∧ t.pending = rest) ∧
    (∀ m : Byte, s.pending = setMirr s.board m ++ rest →
      ∃ t, Host.Core.run core 1 s = .next t ∧ t.mirr.toNat = m.toNat % 2 ^ s.board.mirrBits.width ∧
        t.prg = s.prg ∧ t.pending = rest)

/-! ### The mirroring write decoder -/

/-- R125, R128: on a live board MIRW completes; `MIRR` becomes `D[MIRR_BITS-1:0]`; of the mapping only the
mirroring mode may move, to SYNC's; the rest is unchanged.
That the other fields of MAP stay is the spec's own inference; MIRR_BITS is its decision D6. -/
def Obligations.MirroringWriteStoresLowBits : Prop :=
  ∀ (s : State) (off : BitVec 13) (d : Byte), Inv s → s.phase = .live →
    ∃ t, exec (.mirw off d) s = .next t ∧
      t.mirr.toNat = d.toNat % 2 ^ s.board.mirrBits.width ∧
      t.map = { s.map with mirror := s.board.mirrorMode t.mirr } ∧
      t = { s with mirr := t.mirr, map := t.map, reply := .none } ∧
      (∀ a, t.ram.read a = s.ram.read a) ∧ (∀ a, t.chr.read a = s.chr.read a)

/-- R126: `MIRR` after a MIRW depends on that write's data alone (the register's width being the board's). -/
def Obligations.MirroringWriteDoesNotAccumulate : Prop :=
  ∀ (s s' t t' : State) (off off' : BitVec 13) (d : Byte), s.board.mirrBits = s'.board.mirrBits →
    exec (.mirw off d) s = .next t → exec (.mirw off' d) s' = .next t' → t.mirr = t'.mirr

/-- R127: a MIRW writes the register whatever `CFG` is, and the new value is what SAVE persists; under a fixed `CFG`
the mirroring mode does not change. -/
def Obligations.FixedConfigurationIgnoresMirroringWrites : Prop :=
  ∀ (s : State) (off : BitVec 13) (d : Byte), Inv s → s.phase = .live →
    ∃ t, exec (.mirw off d) s = .next t ∧ t.mirr.toNat = d.toNat % 2 ^ s.board.mirrBits.width ∧
      (∃ u img, exec .save t = .next u ∧ u.reply = .image img ∧
        ((regionBytes img 1).read 0).toNat = d.toNat % 2 ^ s.board.mirrBits.width) ∧
      (s.board.cfg = s.board.cfgH ∨ s.board.cfg = s.board.cfgV →
        t.map.mirror = s.map.mirror ∧ (t.map.mirror = .h ∨ t.map.mirror = .v))

/-- R129, R142: under a mapper-controlled `CFG` bit 0 of the data selects the first or the second single-screen
variant, whatever `MIRR_BITS`.
Which variant is first is the spec's decision D9. -/
def Obligations.MapperControlledModeIsBitZero : Prop :=
  ∀ (s : State) (off : BitVec 13) (d : Byte), s.phase = .live → s.board.namesDistinct = true →
    (s.board.cfg = s.board.cfgMA ∨ s.board.cfg = s.board.cfgMB) →
    ∃ t, exec (.mirw off d) s = .next t ∧ t.map.mirror = (if d.toNat % 2 = 0 then .s0 else .s1)

/-! ### SYNC -/

/-- R135 to R143: SYNC completes in every state, writes `MAP` alone, and gives each field the value of its rule.
The last clause is the fallback of R143 (the spec's decision D8; notes/assumptions/9.md).
Rests on the spec's decisions D5, D8, D9, D11, D12. -/
def Obligations.SyncComputesTheMapping : Prop :=
  ∀ s : State, s.board.banksOk = true → s.board.namesDistinct = true →
    ∃ t, exec .sync s = .next t ∧ t = { s with map := t.map } ∧
      (s.board.shift = .appendHigh → t.map.prgLo.toNat = s.prg.toNat % s.board.prgBanks) ∧
      (s.board.shift = .appendHighShiftRight →
        t.map.prgLo.toNat = s.board.prgSelectB[s.prg.toNat].toNat % s.board.prgBanks) ∧
      t.map.prgHi.toNat = s.board.prgBanks - 1 ∧
      t.map.chr = (if s.board.hasChrRam then .chrRamBank0 else .notDriven) ∧
      (s.board.cfg = s.board.cfgH → t.map.mirror = .h) ∧
      (s.board.cfg = s.board.cfgV → t.map.mirror = .v) ∧
      (s.board.cfg = s.board.cfgMA ∨ s.board.cfg = s.board.cfgMB →
        t.map.mirror = if s.mirr.toNat % 2 = 0 then .s0 else .s1) ∧
      (s.board.cfgRecognised = false → t.map.mirror = if s.mirr.toNat % 2 = 0 then .s0 else .s1)

/-- R59, R135: SYNC twice in a row leaves `MAP` as after once. -/
def Obligations.SyncIsIdempotent : Prop :=
  ∀ s t : State, exec .sync s = .next t → exec .sync t = .next t

/-- R144, R145: the operations that end with SYNC leave `MAP` as SYNC computes it from the registers they leave;
no other operation changes it; SYNC itself changes nothing else. -/
def Obligations.OnlySyncWritesTheMapping : Prop :=
  ∀ (i : Instr) (s t : State), exec i s = .next t →
    (i.runsSync = true → t.map = syncMap t.board t.prg t.mirr) ∧ (i.runsSync = false → t.map = s.map) ∧
    (i = .sync → t = { s with map := t.map })

/-! ### The CPU bus -/

/-- R160: on a live board a scratch-RAM read completes with the byte at the offset; nothing changes. -/
def Obligations.ScratchRamReadAnswersTheByte : Prop :=
  ∀ (s : State) (off : BitVec 13), s.phase = .live →
    exec (.rdram off) s = .next { s with reply := .byte (s.ram.read off.toNat) }

/-- R163: on a live board a scratch-RAM write completes; the byte at the offset becomes the data, every other
byte and everything else is unchanged. -/
def Obligations.ScratchRamWriteStoresTheByte : Prop :=
  ∀ (s : State) (off : BitVec 13) (v : Byte), Inv s → s.phase = .live →
    ∃ t, exec (.ramw off v) s = .next t ∧
      t.ram.read off.toNat = v ∧ (∀ a, a ≠ off.toNat → t.ram.read a = s.ram.read a) ∧
      t = { s with ram := t.ram, reply := .none }

/-- R161, R162, R146: on a live board the two program windows answer `ROM[MAP.prg_lo * 16384 + offset]` and
`ROM[(PRG_BANKS - 1) * 16384 + offset]`; nothing changes.
The lookup formula is the spec's inference and general knowledge G5; the last bank is its decision D11. -/
def Obligations.ProgramWindowReadsComplete : Prop :=
  ∀ (s : State) (off : BitVec 14), Inv s → s.phase = .live →
    exec (.rdlo off) s =
      .next { s with reply := .byte (s.launch.rom.read (s.map.prgLo.toNat * 16384 + off.toNat)) } ∧
    exec (.rdhi off) s =
      .next { s with reply := .byte (s.launch.rom.read ((s.board.prgBanks - 1) * 16384 + off.toNat)) }

/-- The model's own guard (notes/assumptions/5.md): a program-window read at an index program memory does not
have is a fault. R146 says no state the rules reach does it. -/
def Obligations.ReadPastProgramMemoryFaults : Prop :=
  ∀ (s : State) (off : BitVec 14), s.phase = .live →
    (s.board.prgBanks * 16384 ≤ s.map.prgLo.toNat * 16384 + off.toNat →
      exec (.rdlo off) s = .fault .romOutOfRange) ∧
    (s.board.prgBanks * 16384 ≤ s.map.prgHi.toNat * 16384 + off.toNat →
      exec (.rdhi off) s = .fault .romOutOfRange)

/-- R164, R165: on a live board WNOP and EXTW complete and change nothing.
The absence of bus conflicts is the spec's decision D20. -/
def Obligations.UndecodedWritesDoNothing : Prop :=
  ∀ (s : State) (a : Nat) (d : Byte), s.phase = .live →
    exec (.wnop a d) s = .next { s with reply := .none } ∧ exec (.extw a d) s = .next { s with reply := .none }

/-- R165, R168: on a live board EXTR and a CHREXT read complete with a fresh draw of `OPEN_BUS`, whatever its
values are, and a CHREXT write completes, at every PPU address; no state of the block changes. The last clause is R148:
where `MAP.chr` is `NOT_DRIVEN` a graphics-window access is CHREXT.
The draw is the spec's decisions D12, D20, and notes/assumptions/11.md. -/
def Obligations.UnansweredReadsAreDraws : Prop :=
  ∀ (s : State) (a pa : Nat) (off : BitVec 13) (d : Byte), s.phase = .live →
    exec (.extr a) s = .next { s with draws := s.draws + 1, reply := .byte (Config.openBus s.draws) } ∧
    exec (.chrext pa .read) s = .next { s with draws := s.draws + 1, reply := .byte (Config.openBus s.draws) } ∧
    exec (.chrext pa (.write d)) s = .next { s with reply := .none } ∧
    (s.map.chr = .notDriven →
      exec (.chrrd off) s = .next { s with draws := s.draws + 1, reply := .byte (Config.openBus s.draws) } ∧
      exec (.chrwr off d) s = .next { s with reply := .none })

/-- R171: a byte stored in scratch RAM, or in graphics RAM, is what a read at that place answers until the next
write there, RESTORE or CLOSE, whatever other operations run between.
The law is the spec's own inference; CHRWR rests on its decision D28. -/
def Obligations.StoreThenLoad : Prop :=
  ∀ (s t u : State) (off : BitVec 13) (v : Byte) (is : List Instr), Inv s →
    execAll is t = .next u → (∀ i ∈ is, i ≠ .close ∧ ∀ img, i ≠ .restore img) →
    (exec (.ramw off v) s = .next t → (∀ i ∈ is, ∀ w, i ≠ .ramw off w) →
      exec (.rdram off) u = .next { u with reply := .byte v }) ∧
    (s.board.hasChrRam = true → exec (.chrwr off v) s = .next t → (∀ i ∈ is, ∀ w, i ≠ .chrwr off w) →
      exec (.chrrd off) u = .next { u with reply := .byte v })

/-- R58, R170: after a read or an undecoded write the whole state of the block equals the state before.
The law is the spec's own inference. -/
def Obligations.ReadsAndUndecodedWritesChangeNothing : Prop :=
  ∀ (i : Instr) (s t : State), i.isReadOrUndecoded = true → exec i s = .next t → sameBlock s t

/-! ### The PPU bus -/

/-- R166, R167, R148: on a live board with graphics RAM CHRRD completes with the byte at the offset, and CHRWR
completes and changes that byte alone.
The write path is the spec's decision D28, the window's place general knowledge G3. -/
def Obligations.GraphicsRamReadsAndWrites : Prop :=
  ∀ (s : State) (off : BitVec 13) (v : Byte), Inv s → s.phase = .live → s.board.hasChrRam = true →
    exec (.chrrd off) s = .next { s with reply := .byte (s.chr.read off.toNat) } ∧
    ∃ t, exec (.chrwr off v) s = .next t ∧
      t.chr.read off.toNat = v ∧ (∀ a, a ≠ off.toNat → t.chr.read a = s.chr.read a) ∧
      t = { s with chr := t.chr, reply := .none }

/-- R169, R149: on a live board NTSEL completes for reads and writes alike; its output bit is `PA[11]` under `H`,
`PA[10]` under `V`, 0 under `S0`, 1 under `S1`; nothing changes. (The table is general knowledge, decision
D10.) -/
def Obligations.VideoRamHalfSelect : Prop :=
  ∀ (s : State) (pa : BitVec 13) (acc : Access), s.phase = .live →
    ∃ h : BitVec 1, exec (.ntsel pa acc) s = .next { s with reply := .half h } ∧
      (s.map.mirror = .h → h.toNat = pa.toNat / 2048 % 2) ∧
      (s.map.mirror = .v → h.toNat = pa.toNat / 1024 % 2) ∧
      (s.map.mirror = .s0 → h.toNat = 0) ∧ (s.map.mirror = .s1 → h.toNat = 1)

/-- R149: the table of halves. Table `PA[11:10]` of the video-RAM range goes to half 0, 0, 1, 1 under `H`; 0, 1, 0, 1
under `V`; 0 under `S0`; 1 under `S1`; and the byte reached is `half * 1024 + PA[9:0]`, so the range repeats every
0x1000. (General knowledge, decision D10.) -/
def Obligations.VideoRamTables : Prop :=
  ∀ (pa : BitVec 13) (table offset : Nat), table < 4 → offset < 1024 →
    pa.toNat % 4096 = table * 1024 + offset →
    videoRamIndex .h pa = (if table < 2 then 0 else 1) * 1024 + offset ∧
    videoRamIndex .v pa = table % 2 * 1024 + offset ∧
    videoRamIndex .s0 pa = offset ∧ videoRamIndex .s1 pa = 1024 + offset

/-! ### The lifecycle -/

/-- R176, R177, R40, R42, R45: CONSTRUCT in phase `NONE`, on parameters it accepts, completes: registers zero,
RAM as drawn, the regions registered in order, `MAP` not written.
Phases, draws and the order of the regions are the spec's decisions D15, D17, D18. -/
def Obligations.ConstructBuildsTheBoard : Prop :=
  ∀ s : State, s.phase = .none → s.board.accepted = true →
    ∃ t, exec .construct s = .next t ∧
      t.prg = 0 ∧ t.mirr = 0 ∧ t.ram = s.launch.ramInit ∧ t.ownRam = true ∧
      t.ownChr = s.board.hasChrRam ∧ (s.board.hasChrRam = true → t.chr = s.launch.chrInit) ∧
      (s.board.hasChrRam = false → t.chr = s.chr) ∧
      t.regions = [⟨s.board.idPrg, 1⟩, ⟨s.board.idMirr, 1⟩, ⟨s.board.idRam, 8192⟩] ++
        (if s.board.hasChrRam then [⟨s.board.idChr, 8192⟩] else []) ∧
      t.phase = .built ∧
      t = { s with prg := t.prg, mirr := t.mirr, ram := t.ram, chr := t.chr, ownRam := t.ownRam, ownChr := t.ownChr,
                   regions := t.regions, phase := t.phase, reply := .none }

/-- R40: "Registers are created at board construction (zero-initialized)". -/
def Obligations.ConstructZeroesTheRegisters : Prop :=
  ∀ s t : State, exec .construct s = .next t → t.prg = 0 ∧ t.mirr = 0

/-- R176, R201, R205: in phase `NONE` CONSTRUCT refuses parameters it does not accept, by the first of its
requirements that fails.
The refusals are the spec's decisions D3, D8, D11, D21. -/
def Obligations.ConstructRefusesInOrder : Prop :=
  ∀ s : State, s.phase = .none →
    (s.board.prgBanks ∉ [1, 2, 4, 8, 16, 32] → exec .construct s = .refused .badPrgSize) ∧
    (s.board.prgBanks ∈ [1, 2, 4, 8, 16, 32] → s.board.cfgRecognised = false → s.board.fallback = .refuse →
      exec .construct s = .refused .badConfig) ∧
    (s.board.prgBanks ∈ [1, 2, 4, 8, 16, 32] →
      (s.board.cfgRecognised = true ∨ s.board.fallback = .mapperControlled) → s.board.mapOk = false →
      exec .construct s = .refused .badMap)

/-- R178, R41: POWER in `BUILT` or `LIVE` completes: SYNC, the debug/cheat registration, phase `LIVE`; it writes
neither register and no RAM byte (the registers: decision D16).
That no register is cleared is the spec's decision D16, the phases D15. -/
def Obligations.PowerEstablishesTheMapping : Prop :=
  ∀ s : State, (s.phase = .built ∨ s.phase = .live) →
    exec .power s = .next { s with
      map := syncMap s.board s.prg s.mirr
      cheat := some ⟨s.board.cheatOffset, s.board.cheatSize⟩
      phase := .live
      reply := .none }

/-- R178, R222: "a POWER in `LIVE` changes no state at all".
Rests on the spec's decision D16. -/
def Obligations.PowerOnLiveBoardChangesNothing : Prop :=
  ∀ s : State, Inv s → s.phase = .live → exec .power s = .next { s with reply := .none }

/-- R15(b), R44 to R46, R91 (BOOT), R220: CONSTRUCT then POWER take the start of a run to "fresh live"; on the
default launch with nothing listed that is `State.reset`.
The two start states are the spec's decision D30; State.reset is the model's choice of the second
(notes/assumptions/1.md). -/
def Obligations.BootReachesFreshLive : Prop :=
  (∀ (l : Launch) (m : Mapping) (steps : List Request), l.board.accepted = true →
    execAll [.construct, .power] (State.start l m steps) = .next (State.freshLive l steps)) ∧
  ∀ m : Mapping, execAll [.construct, .power] (State.start Launch.default m []) = .next State.reset

/-- R180, R25, R26, R51: SAVE on a live board completes and changes nothing; its image is the list of regions in
registration order, the register bytes zero-extended, the RAM bytes in ascending index order.
The order of regions and bytes is the spec's decision D18. -/
def Obligations.SaveTakesTheImage : Prop :=
  ∀ s : State, s.phase = .live →
    ∃ img, exec .save s = .next { s with reply := .image img } ∧
      img.map (fun r => (r.id, r.bytes.toBytes r.size)) =
        [(s.board.idPrg, [BitVec.ofNat 8 s.prg.toNat]), (s.board.idMirr, [BitVec.ofNat 8 s.mirr.toNat]),
         (s.board.idRam, (List.range 8192).map s.ram.read)] ++
        (if s.board.hasChrRam then [(s.board.idChr, (List.range 8192).map s.chr.read)] else [])

/-- R182: "Every image SAVE produces is well-formed."
Well-formedness is the spec's decision D19, its form here notes/assumptions/7.md. -/
def Obligations.SavedImagesAreWellFormed : Prop :=
  ∀ (s t : State) (img : Image), Inv s → exec .save s = .next t → t.reply = .image img →
    imageOk s.board img = true

/-- R181: RESTORE of a well-formed image on a live board completes: the registers and the memories are the
image's, the mapping is SYNC's, the rest is unchanged.
One step for the two moments is the spec's decision D19. -/
def Obligations.RestoreLoadsTheImage : Prop :=
  ∀ (s : State) (img : Image), s.phase = .live → imageOk s.board img = true →
    ∃ t, exec (.restore img) s = .next t ∧
      t.prg.toNat = ((regionBytes img 0).read 0).toNat ∧ t.mirr.toNat = ((regionBytes img 1).read 0).toNat ∧
      (∀ a, t.ram.read a = (regionBytes img 2).read a) ∧
      (s.board.hasChrRam = true → ∀ a, t.chr.read a = (regionBytes img 3).read a) ∧
      (s.board.hasChrRam = false → t.chr = s.chr) ∧
      t.map = syncMap s.board t.prg t.mirr ∧
      t = { s with prg := t.prg, mirr := t.mirr, ram := t.ram, chr := t.chr, map := t.map, reply := .none }

/-- R182, R201 code 5: on a live board an image whose regions are not the board's, in order, with their sizes,
or whose register bytes are out of range, is refused.
The refusal is the spec's decisions D19, D21. -/
def Obligations.RestoreRefusesOtherImages : Prop :=
  ∀ (s : State) (img : Image), s.phase = .live →
    (img.map (fun r => (⟨r.id, r.size⟩ : RegionDecl)) ≠ s.board.regions ∨
      32 ≤ ((regionBytes img 0).read 0).toNat ∨
      2 ^ s.board.mirrBits.width ≤ ((regionBytes img 1).read 0).toNat) →
    exec (.restore img) s = .refused .badImage

/-- R187: an image SAVE takes in one live state, restored in any live state of a board with the same parameters,
gives back the registers, the memories and the mapping.
The form for any two live states is the spec's own inference. -/
def Obligations.SnapshotRoundTrip : Prop :=
  ∀ s t : State, Inv s → s.phase = .live → Inv t → t.phase = .live → t.board = s.board →
    ∃ s' img u, exec .save s = .next s' ∧ s'.reply = .image img ∧ exec (.restore img) t = .next u ∧
      u.prg = s.prg ∧ u.mirr = s.mirr ∧ u.ram = s.ram ∧ u.chr = s.chr ∧ u.map = s.map

/-- R183, R184, R35: CLOSE completes in every phase but `NONE`: a memory still owned is released, both markers clear,
phase `CLOSED`, the registers and the mapping not cleared; on a board that is closed it changes nothing.
The phases are the spec's decision D15; the released memories are emptied (notes/assumptions/10.md). -/
def Obligations.CloseReleasesOnce : Prop :=
  ∀ s : State, s.phase ≠ .none →
    (∃ t, exec .close s = .next t ∧
      t.ram = (if s.ownRam then [] else s.ram) ∧ t.chr = (if s.ownChr then [] else s.chr) ∧
      t.ownRam = false ∧ t.ownChr = false ∧ t.phase = .closed ∧
      t = { s with ram := t.ram, chr := t.chr, ownRam := t.ownRam, ownChr := t.ownChr, phase := t.phase,
                   reply := .none }) ∧
    (Inv s → s.phase = .closed → exec .close s = .next { s with reply := .none })

/-- R35, R184: only CLOSE clears an ownership marker, and only a CONSTRUCT in phase `NONE` sets one, so a region
is released at most once; no operation leads out of `CLOSED`.
The phases are the spec's decision D15. -/
def Obligations.OwnershipChangesOnlyAtConstructAndClose : Prop :=
  ∀ (i : Instr) (s t : State), exec i s = .next t →
    (s.ownRam = true → t.ownRam = false → i = .close) ∧
    (s.ownChr = true → t.ownChr = false → i = .close ∨ (i = .construct ∧ s.phase = .none)) ∧
    (s.ownRam = false → t.ownRam = true → i = .construct ∧ s.phase = .none) ∧
    (s.ownChr = false → t.ownChr = true → i = .construct ∧ s.phase = .none) ∧
    (s.phase = .closed → t.phase = .closed) ∧ (s.phase ≠ .none → t.phase ≠ .none)

/-- R175, R201: the admission table's refusals, every operation in every phase that does not admit it.
The table is the spec's decision D15. -/
def Obligations.AdmissionTable : Prop :=
  ∀ (i : Instr) (s : State),
    (s.phase = .none →
      ((i = .power ∨ i = .close) → exec i s = .refused .notBuilt) ∧
      ((i.isBus = true ∨ i = .save ∨ ∃ img, i = .restore img) → exec i s = .refused .notLive)) ∧
    (s.phase = .built →
      (i = .construct → exec i s = .refused .alreadyBuilt) ∧
      ((i.isBus = true ∨ i = .save ∨ ∃ img, i = .restore img) → exec i s = .refused .notLive)) ∧
    (s.phase = .live → i = .construct → exec i s = .refused .alreadyBuilt) ∧
    (s.phase = .closed → i ≠ .close → i ≠ .sync → exec i s = .refused .closed)

/-! ### The whole machine -/

/-- R40, R42, R44 to R46: right after reset `PRG` and `MIRR` are 0, the board is live and owns its RAM, `MAP` shows the
last bank in the upper window and, on the default board, bank 0 in the lower.
Reset is the spec's named state fresh live (decision D30; notes/assumptions/1.md). That the lower window shows bank 0 is
the model's choice: it rests on the default board's SHIFT_VARIANT = APPEND_HIGH (and identity PRG_SELECT_B), which R8 and D4
leave OPEN (DESIGN CHOICE, notes/assumptions/3.md). -/
def Obligations.ResetValues : Prop :=
  State.reset.prg = 0 ∧ State.reset.mirr = 0 ∧ State.reset.phase = .live ∧ State.reset.ownRam = true ∧
  State.reset.ownChr = State.reset.board.hasChrRam ∧ State.reset.ram = State.reset.launch.ramInit ∧
  State.reset.map.prgLo = 0 ∧ State.reset.map.prgHi.toNat = State.reset.board.prgBanks - 1

/-- The invariant holds right after reset (R33, R34, R35, R46).
State.reset is the model's choice of the spec's fresh live (notes/assumptions/1.md) on its default board
(notes/assumptions/3.md); the canonical form of the memories is the model's (notes/assumptions/2.md). -/
def Obligations.ResetMeetsInvariant : Prop := Inv State.reset

/-- The invariant holds at the start of every run (R15(b)), whatever the parameters.
The start state is the spec's decision D30, its empty fields notes/assumptions/14.md. -/
def Obligations.StartMeetsInvariant : Prop :=
  ∀ (l : Launch) (m : Mapping) (steps : List Request), l.rom.wf l.board.romSize = true →
    l.ramInit.wf 8192 = true → l.chrInit.wf 8192 = true → Inv (State.start l m steps)

/-- R34: "Register values are always kept within their valid bit-width": so at the start of a run, and after every
step from any state in which `MIRR`, the register whose width is a parameter, is within its width. -/
def Obligations.WidthsAreKept : Prop :=
  (∀ (l : Launch) (m : Mapping) (steps : List Request), (State.start l m steps).prg.toNat < 32 ∧
    (State.start l m steps).mirr.toNat < 2 ^ l.board.mirrBits.width) ∧
  ∀ s t : State, s.mirr.toNat < 2 ^ s.board.mirrBits.width → step s = .next t →
    t.prg.toNat < 32 ∧ t.mirr.toNat < 2 ^ t.board.mirrBits.width

/-- R33, R34, R35 and the canonical form of the memories, as one invariant: every step keeps it.
The phases are the spec's decision D15; the canonical form is the model's (notes/assumptions/2.md). -/
def Obligations.StepKeepsInvariant : Prop :=
  ∀ s t : State, Inv s → step s = .next t → Inv t

/-- R200, R146: no step of a state that meets the invariant faults.
The fault is the model's own guard (notes/assumptions/5.md). -/
def Obligations.NoStepFaults : Prop :=
  ∀ (s : State) (f : Fault), Inv s → step s ≠ .fault f

/-- R200, R83, R175: on a live board every bus transaction, read or write, whatever its address and data, is
accepted: the step answers a next state, and the board stays live.
The admission is the spec's decision D15. -/
def Obligations.LiveBoardAcceptsEveryTransaction : Prop :=
  ∀ (s : State) (r : Request) (rest : List Request), Inv s → s.phase = .live → s.pending = r :: rest →
    r.agent ≠ .host → ∃ t, step s = .next t ∧ t.phase = .live ∧ t.pending = rest

/-- R37, R83, R88, R110, R125, R163 to R165: what a CPU write of `d` at `a` does, for every address, in terms of
the ranges alone. "Writes to addresses outside the four defined ranges never mutate any register."
The windows' alignment and disjointness are the spec's decision D3. -/
def Obligations.CpuWriteEffects : Prop :=
  ∀ (s : State) (a : Nat) (d : Byte) (rest : List Request), Inv s → s.phase = .live →
    a < 2 ^ s.board.addrW → s.pending = .cpu (cpuWord s.board true a d) :: rest →
    ∃ t, step s = .next t ∧
      (s.board.inPrgc a = true → t.prg.toNat = 16 * (d.toNat % 2) + s.prg.toNat / 2) ∧
      (s.board.inPrgc a = false → t.prg = s.prg) ∧
      (s.board.inMirr a = true → t.mirr.toNat = d.toNat % 2 ^ s.board.mirrBits.width) ∧
      (s.board.inMirr a = false → t.mirr = s.mirr) ∧
      (s.board.inRam a = true → t.ram.read (a - s.board.ramBase) = d) ∧
      (∀ k, (s.board.inRam a = true → k ≠ a - s.board.ramBase) → t.ram.read k = s.ram.read k) ∧
      t.map = syncMap s.board t.prg t.mirr ∧
      t = { s with prg := t.prg, mirr := t.mirr, ram := t.ram, map := t.map, pending := rest, reply := .none }

/-- R150, R151, R160 to R162, R165: what a CPU read at `a` answers is what `cpu_lookup` says, for every address;
no state of the block changes.
The lookup is the spec's own inference (R150); the draw its decision D20. -/
def Obligations.CpuReadFollowsLookup : Prop :=
  ∀ (s : State) (a : Nat) (d : Byte) (rest : List Request), Inv s → s.phase = .live →
    a < 2 ^ s.board.addrW → s.pending = .cpu (cpuWord s.board false a d) :: rest →
    step s = .next (match cpuLookup s.board s.map a with
      | .ram k => { s with pending := rest, reply := .byte (s.ram.read k) }
      | .rom k => { s with pending := rest, reply := .byte (s.launch.rom.read k) }
      | .notMine => { s with pending := rest, draws := s.draws + 1, reply := .byte (Config.openBus s.draws) })

/-- R56, R84, R148, R149, R166 to R169: what a PPU access at `pa` does, for every address of a bus of any width. In the
graphics window it is a read of or a store to CHR, or is not answered; in the video-RAM range it gives the half-select.
An address above both is not the block's (R57): no effect, a read a fresh draw (notes/assumptions/4.md).
The PPU map is general knowledge G3, G4; the write path is the spec's decision D28, the draw D12. -/
def Obligations.PpuAccessEffects : Prop :=
  ∀ (s : State) (w : Bool) (pa : Nat) (d : Byte) (rest : List Request), Inv s → s.phase = .live →
    pa < 2 ^ s.board.ppuAddrW → s.pending = .ppu (ppuWord s.board w pa d) :: rest →
    ∃ t, step s = .next t ∧
      (0x2000 ≤ pa → pa < 0x4000 → ∃ h, t = { s with pending := rest, reply := .half h } ∧
        h = ntHalf s.map.mirror (BitVec.ofNat 13 pa)) ∧
      (pa < 0x2000 → s.board.hasChrRam = true → w = false →
        t = { s with pending := rest, reply := .byte (s.chr.read pa) }) ∧
      (pa < 0x2000 → s.board.hasChrRam = true → w = true →
        t.chr.read pa = d ∧ (∀ k, k ≠ pa → t.chr.read k = s.chr.read k) ∧
        t = { s with chr := t.chr, pending := rest, reply := .none }) ∧
      (pa < 0x2000 ∧ s.board.hasChrRam = false ∨ 0x4000 ≤ pa → w = false →
        t = { s with pending := rest, draws := s.draws + 1, reply := .byte (Config.openBus s.draws) }) ∧
      (pa < 0x2000 ∧ s.board.hasChrRam = false ∨ 0x4000 ≤ pa → w = true → t = { s with pending := rest, reply := .none })

/-- R37: the write matrix. Each piece of state is changed by the operations of its row and by no other. -/
def Obligations.WriteMatrix : Prop :=
  ∀ (i : Instr) (s t : State), exec i s = .next t →
    (t.prg ≠ s.prg → i = .construct ∨ i.isPrgw = true ∨ ∃ img, i = .restore img) ∧
    (t.mirr ≠ s.mirr → i = .construct ∨ (∃ off d, i = .mirw off d) ∨ ∃ img, i = .restore img) ∧
    (t.ram ≠ s.ram → i = .construct ∨ (∃ off v, i = .ramw off v) ∨ (∃ img, i = .restore img) ∨ i = .close) ∧
    (t.chr ≠ s.chr → i = .construct ∨ (∃ off v, i = .chrwr off v) ∨ (∃ img, i = .restore img) ∨ i = .close) ∧
    (t.map ≠ s.map → i.runsSync = true) ∧
    (t.ownRam ≠ s.ownRam ∨ t.ownChr ≠ s.ownChr → i = .construct ∨ i = .close) ∧
    (t.phase ≠ s.phase → i = .construct ∨ i = .power ∨ i = .close)

/-- R8, R27, R31: nothing the launch fixes (`CFG` and the other parameters, program memory, the draws of the RAM
contents) is ever changed by a step.
That program memory is no state is the spec's own inference (R31). -/
def Obligations.LaunchNeverChanges : Prop :=
  ∀ s t : State, step s = .next t → t.launch = s.launch

/-- R151: two live states of one board with equal `MAP`, `RAM`, `CHR` and `ROM` answer every bus transaction
alike (and draw alike), whatever `PRG` and `MIRR` hold.
R151 is the spec's own inference. -/
def Obligations.AnswersDependOnlyOnMapAndMemories : Prop :=
  ∀ (s s' t t' : State) (r : Request) (rest rest' : List Request), r.agent ≠ .host →
    s.board = s'.board → s.map = s'.map → s.ram = s'.ram → s.chr = s'.chr → s.launch.rom = s'.launch.rom →
    s.draws = s'.draws → s.pending = r :: rest → s'.pending = r :: rest' →
    step s = .next t → step s' = .next t' → t.reply = t'.reply ∧ t.draws = t'.draws

/-- R208: through a bus transaction a program can change `PRG`, `MIRR`, `RAM`, `CHR` (and the mapping they
cause) and nothing else.
R208 is the spec's own inference. -/
def Obligations.BusReachesNoHostState : Prop :=
  ∀ (s t : State) (r : Request) (rest : List Request), s.pending = r :: rest → r.agent ≠ .host →
    step s = .next t →
    t = { s with prg := t.prg, mirr := t.mirr, ram := t.ram, chr := t.chr, map := t.map, pending := rest,
                 reply := t.reply, draws := t.draws }
end

