-- ==== Sys2Proof/Laws/Memory.lean ====
section
/-! SUPPORT. The laws of a memory: a read after a write, the canonical form kept by every operation, and equal
contents being equal data. -/

namespace Sys2Proof

@[simp] theorem Memory.read_nil (a : Nat) : Memory.read [] a = Memory.unlisted := rfl

theorem Memory.read_cons (k : Nat) (v : Byte) (m : Memory) (a : Nat) :
    Memory.read ((k, v) :: m) a = if k = a then v else Memory.read m a := rfl

/-- A write leaves every other byte alone, whatever the list. -/
theorem Memory.read_write_other {a b : Nat} (h : b ≠ a) (v : Byte) (m : Memory) :
    (Memory.write m a v).read b = m.read b := by
  induction m with
  | nil =>
    simp only [Memory.write]
    split
    · rfl
    · simp [Memory.read, h.symm]
  | cons c m ih =>
    obtain ⟨k, w⟩ := c
    simp only [Memory.write]
    split_ifs with h1 h2 h3 h4
    · rfl
    · simp [Memory.read_cons, h.symm]
    · subst h3; simp [Memory.read_cons, h.symm]
    · subst h3; simp [Memory.read_cons, h.symm]
    · simp [Memory.read_cons, ih]

/-- The four parts of the canonical form of a list with a first cell. -/
theorem Memory.wfFrom_cons {size lo k : Nat} {v : Byte} {m : Memory} :
    Memory.wfFrom size lo ((k, v) :: m) = true ↔
      lo ≤ k ∧ k < size ∧ v ≠ Memory.unlisted ∧ Memory.wfFrom size (k + 1) m = true := by
  simp [Memory.wfFrom, and_assoc]

@[simp] theorem Memory.wfFrom_nil (size lo : Nat) : Memory.wfFrom size lo [] = true := rfl

theorem Memory.wfFrom_mono {size lo lo' : Nat} {m : Memory} (h : lo' ≤ lo)
    (hm : Memory.wfFrom size lo m = true) : Memory.wfFrom size lo' m = true := by
  cases m with
  | nil => rfl
  | cons c m =>
    obtain ⟨k, v⟩ := c
    rw [Memory.wfFrom_cons] at hm ⊢
    exact ⟨by omega, hm.2⟩

/-- A byte below every listed index reads as unlisted. -/
theorem Memory.read_of_lt {size lo a : Nat} {m : Memory} (hm : Memory.wfFrom size lo m = true) (h : a < lo) :
    m.read a = Memory.unlisted := by
  induction m generalizing lo with
  | nil => rfl
  | cons c m ih =>
    obtain ⟨k, v⟩ := c
    rw [Memory.wfFrom_cons] at hm
    rw [Memory.read_cons, if_neg (by omega), ih hm.2.2.2 (by omega)]

theorem Memory.read_write_same_from {size lo : Nat} {m : Memory} (hm : Memory.wfFrom size lo m = true)
    (a : Nat) (v : Byte) : (Memory.write m a v).read a = v := by
  induction m generalizing lo with
  | nil =>
    simp only [Memory.write]
    split_ifs with h
    · simp [h]
    · simp [Memory.read_cons]
  | cons c m ih =>
    obtain ⟨k, w⟩ := c
    have hm' := hm
    rw [Memory.wfFrom_cons] at hm
    simp only [Memory.write]
    split_ifs with h1 h2 h3 h4
    · rw [Memory.read_cons, if_neg (by omega), Memory.read_of_lt hm.2.2.2 (by omega), h2]
    · simp [Memory.read_cons]
    · rw [Memory.read_of_lt hm.2.2.2 (by omega), h4]
    · simp [Memory.read_cons]
    · rw [Memory.read_cons, if_neg (by omega), ih hm.2.2.2]

/-- A read of the byte just written gives the value written. -/
theorem Memory.read_write_same {size : Nat} {m : Memory} (hm : m.wf size = true) (a : Nat) (v : Byte) :
    (Memory.write m a v).read a = v := Memory.read_write_same_from hm a v

theorem Memory.wfFrom_write {size lo a : Nat} {m : Memory} (hm : Memory.wfFrom size lo m = true) (hlo : lo ≤ a)
    (ha : a < size) (v : Byte) : Memory.wfFrom size lo (Memory.write m a v) = true := by
  induction m generalizing lo with
  | nil =>
    simp only [Memory.write]
    split_ifs with h
    · rfl
    · rw [Memory.wfFrom_cons]; exact ⟨hlo, ha, h, rfl⟩
  | cons c m ih =>
    obtain ⟨k, w⟩ := c
    have hm' := Memory.wfFrom_cons.mp hm
    simp only [Memory.write]
    split_ifs with h1 h2 h3 h4
    · exact hm
    · rw [Memory.wfFrom_cons]
      exact ⟨hlo, ha, h2, Memory.wfFrom_cons.mpr ⟨by omega, hm'.2⟩⟩
    · exact Memory.wfFrom_mono (by omega) hm'.2.2.2
    · rw [Memory.wfFrom_cons]; exact ⟨hlo, ha, h4, h3 ▸ hm'.2.2.2⟩
    · rw [Memory.wfFrom_cons]
      exact ⟨hm'.1, hm'.2.1, hm'.2.2.1, ih hm'.2.2.2 (by omega)⟩

/-- A write inside the memory keeps the canonical form. -/
theorem Memory.wf_write {size a : Nat} {m : Memory} (hm : m.wf size = true) (ha : a < size) (v : Byte) :
    Memory.wf size (Memory.write m a v) = true := Memory.wfFrom_write hm (Nat.zero_le a) ha v

@[simp] theorem Memory.wf_nil (size : Nat) : Memory.wf size [] = true := rfl

theorem Memory.wf_single (v : Byte) : Memory.wf 1 (Memory.single v) = true :=
  Memory.wf_write (Memory.wf_nil 1) Nat.one_pos v

@[simp] theorem Memory.read_single (v : Byte) : (Memory.single v).read 0 = v :=
  Memory.read_write_same (Memory.wf_nil 1) 0 v

theorem Memory.ext_from {size lo : Nat} {m m' : Memory} (hm : Memory.wfFrom size lo m = true)
    (hm' : Memory.wfFrom size lo m' = true) (h : ∀ a, m.read a = m'.read a) : m = m' := by
  induction m generalizing m' lo with
  | nil =>
    cases m' with
    | nil => rfl
    | cons c m' =>
      obtain ⟨k, v⟩ := c
      have := h k
      rw [Memory.wfFrom_cons] at hm'
      simp [Memory.read_cons] at this
      exact absurd this.symm hm'.2.2.1
  | cons c m ih =>
    obtain ⟨k, v⟩ := c
    have hk := Memory.wfFrom_cons.mp hm
    cases m' with
    | nil =>
      have := h k
      simp [Memory.read_cons] at this
      exact absurd this hk.2.2.1
    | cons c' m' =>
      obtain ⟨k', v'⟩ := c'
      have hk' := Memory.wfFrom_cons.mp hm'
      have hkk : k = k' := by
        rcases Nat.lt_trichotomy k k' with hlt | heq | hlt
        · have := h k
          rw [Memory.read_cons, if_pos rfl, Memory.read_cons, if_neg (by omega),
            Memory.read_of_lt hk'.2.2.2 (by omega)] at this
          exact absurd this hk.2.2.1
        · exact heq
        · have := h k'
          rw [Memory.read_cons, if_neg (by omega), Memory.read_of_lt hk.2.2.2 (by omega), Memory.read_cons,
            if_pos rfl] at this
          exact absurd this.symm hk'.2.2.1
      subst hkk
      have hv : v = v' := by simpa [Memory.read_cons] using h k
      subst hv
      congr 1
      refine ih hk.2.2.2 hk'.2.2.2 fun a => ?_
      by_cases ha : k = a
      · subst ha
        rw [Memory.read_of_lt hk.2.2.2 (by omega), Memory.read_of_lt hk'.2.2.2 (by omega)]
      · simpa [Memory.read_cons, ha] using h a

/-- Equal memories are equal data: two canonical lists that read the same everywhere are one list. -/
theorem Memory.ext_of_wf {size : Nat} {m m' : Memory} (hm : m.wf size = true) (hm' : m'.wf size = true)
    (h : ∀ a, m.read a = m'.read a) : m = m' := Memory.ext_from hm hm' h

/-- A byte at or beyond the size reads as unlisted. -/
theorem Memory.read_of_size_le {size lo a : Nat} {m : Memory} (hm : Memory.wfFrom size lo m = true) (h : size ≤ a) :
    m.read a = Memory.unlisted := by
  induction m generalizing lo with
  | nil => rfl
  | cons c m ih =>
    obtain ⟨k, v⟩ := c
    rw [Memory.wfFrom_cons] at hm
    rw [Memory.read_cons, if_neg (by omega), ih hm.2.2.2]

end Sys2Proof
end

