-- ==== Sys2Proof/Laws/State.lean ====
section
/-! SUPPORT. What each named update does to each field of the state: one lemma per field per update. -/

namespace Sys2Proof.Machine

variable (s : State)

@[simp] theorem State.answer_launch (r : Reply) : (s.answer r).launch = s.launch := rfl
@[simp] theorem State.answer_board (r : Reply) : (s.answer r).board = s.board := rfl
@[simp] theorem State.answer_prg (r : Reply) : (s.answer r).prg = s.prg := rfl
@[simp] theorem State.answer_mirr (r : Reply) : (s.answer r).mirr = s.mirr := rfl
@[simp] theorem State.answer_ram (r : Reply) : (s.answer r).ram = s.ram := rfl
@[simp] theorem State.answer_chr (r : Reply) : (s.answer r).chr = s.chr := rfl
@[simp] theorem State.answer_map (r : Reply) : (s.answer r).map = s.map := rfl
@[simp] theorem State.answer_ownRam (r : Reply) : (s.answer r).ownRam = s.ownRam := rfl
@[simp] theorem State.answer_ownChr (r : Reply) : (s.answer r).ownChr = s.ownChr := rfl
@[simp] theorem State.answer_phase (r : Reply) : (s.answer r).phase = s.phase := rfl
@[simp] theorem State.answer_regions (r : Reply) : (s.answer r).regions = s.regions := rfl
@[simp] theorem State.answer_cheat (r : Reply) : (s.answer r).cheat = s.cheat := rfl
@[simp] theorem State.answer_pending (r : Reply) : (s.answer r).pending = s.pending := rfl
@[simp] theorem State.answer_reply (r : Reply) : (s.answer r).reply = r := rfl
@[simp] theorem State.answer_draws (r : Reply) : (s.answer r).draws = s.draws := rfl

@[simp] theorem State.putPrg_launch (v : BitVec 5) : (s.putPrg v).launch = s.launch := rfl
@[simp] theorem State.putPrg_board (v : BitVec 5) : (s.putPrg v).board = s.board := rfl
@[simp] theorem State.putPrg_prg (v : BitVec 5) : (s.putPrg v).prg = v := rfl
@[simp] theorem State.putPrg_mirr (v : BitVec 5) : (s.putPrg v).mirr = s.mirr := rfl
@[simp] theorem State.putPrg_ram (v : BitVec 5) : (s.putPrg v).ram = s.ram := rfl
@[simp] theorem State.putPrg_chr (v : BitVec 5) : (s.putPrg v).chr = s.chr := rfl
@[simp] theorem State.putPrg_map (v : BitVec 5) : (s.putPrg v).map = s.map := rfl
@[simp] theorem State.putPrg_ownRam (v : BitVec 5) : (s.putPrg v).ownRam = s.ownRam := rfl
@[simp] theorem State.putPrg_ownChr (v : BitVec 5) : (s.putPrg v).ownChr = s.ownChr := rfl
@[simp] theorem State.putPrg_phase (v : BitVec 5) : (s.putPrg v).phase = s.phase := rfl
@[simp] theorem State.putPrg_regions (v : BitVec 5) : (s.putPrg v).regions = s.regions := rfl
@[simp] theorem State.putPrg_cheat (v : BitVec 5) : (s.putPrg v).cheat = s.cheat := rfl
@[simp] theorem State.putPrg_pending (v : BitVec 5) : (s.putPrg v).pending = s.pending := rfl
@[simp] theorem State.putPrg_reply (v : BitVec 5) : (s.putPrg v).reply = s.reply := rfl
@[simp] theorem State.putPrg_draws (v : BitVec 5) : (s.putPrg v).draws = s.draws := rfl

@[simp] theorem State.putMirr_launch (v : BitVec 2) : (s.putMirr v).launch = s.launch := rfl
@[simp] theorem State.putMirr_board (v : BitVec 2) : (s.putMirr v).board = s.board := rfl
@[simp] theorem State.putMirr_prg (v : BitVec 2) : (s.putMirr v).prg = s.prg := rfl
@[simp] theorem State.putMirr_mirr (v : BitVec 2) : (s.putMirr v).mirr = v := rfl
@[simp] theorem State.putMirr_ram (v : BitVec 2) : (s.putMirr v).ram = s.ram := rfl
@[simp] theorem State.putMirr_chr (v : BitVec 2) : (s.putMirr v).chr = s.chr := rfl
@[simp] theorem State.putMirr_map (v : BitVec 2) : (s.putMirr v).map = s.map := rfl
@[simp] theorem State.putMirr_ownRam (v : BitVec 2) : (s.putMirr v).ownRam = s.ownRam := rfl
@[simp] theorem State.putMirr_ownChr (v : BitVec 2) : (s.putMirr v).ownChr = s.ownChr := rfl
@[simp] theorem State.putMirr_phase (v : BitVec 2) : (s.putMirr v).phase = s.phase := rfl
@[simp] theorem State.putMirr_regions (v : BitVec 2) : (s.putMirr v).regions = s.regions := rfl
@[simp] theorem State.putMirr_cheat (v : BitVec 2) : (s.putMirr v).cheat = s.cheat := rfl
@[simp] theorem State.putMirr_pending (v : BitVec 2) : (s.putMirr v).pending = s.pending := rfl
@[simp] theorem State.putMirr_reply (v : BitVec 2) : (s.putMirr v).reply = s.reply := rfl
@[simp] theorem State.putMirr_draws (v : BitVec 2) : (s.putMirr v).draws = s.draws := rfl

@[simp] theorem State.putRam_launch (i : Nat) (v : Byte) : (s.putRam i v).launch = s.launch := rfl
@[simp] theorem State.putRam_board (i : Nat) (v : Byte) : (s.putRam i v).board = s.board := rfl
@[simp] theorem State.putRam_prg (i : Nat) (v : Byte) : (s.putRam i v).prg = s.prg := rfl
@[simp] theorem State.putRam_mirr (i : Nat) (v : Byte) : (s.putRam i v).mirr = s.mirr := rfl
@[simp] theorem State.putRam_ram (i : Nat) (v : Byte) : (s.putRam i v).ram = s.ram.write i v := rfl
@[simp] theorem State.putRam_chr (i : Nat) (v : Byte) : (s.putRam i v).chr = s.chr := rfl
@[simp] theorem State.putRam_map (i : Nat) (v : Byte) : (s.putRam i v).map = s.map := rfl
@[simp] theorem State.putRam_ownRam (i : Nat) (v : Byte) : (s.putRam i v).ownRam = s.ownRam := rfl
@[simp] theorem State.putRam_ownChr (i : Nat) (v : Byte) : (s.putRam i v).ownChr = s.ownChr := rfl
@[simp] theorem State.putRam_phase (i : Nat) (v : Byte) : (s.putRam i v).phase = s.phase := rfl
@[simp] theorem State.putRam_regions (i : Nat) (v : Byte) : (s.putRam i v).regions = s.regions := rfl
@[simp] theorem State.putRam_cheat (i : Nat) (v : Byte) : (s.putRam i v).cheat = s.cheat := rfl
@[simp] theorem State.putRam_pending (i : Nat) (v : Byte) : (s.putRam i v).pending = s.pending := rfl
@[simp] theorem State.putRam_reply (i : Nat) (v : Byte) : (s.putRam i v).reply = s.reply := rfl
@[simp] theorem State.putRam_draws (i : Nat) (v : Byte) : (s.putRam i v).draws = s.draws := rfl

@[simp] theorem State.putChr_launch (i : Nat) (v : Byte) : (s.putChr i v).launch = s.launch := rfl
@[simp] theorem State.putChr_board (i : Nat) (v : Byte) : (s.putChr i v).board = s.board := rfl
@[simp] theorem State.putChr_prg (i : Nat) (v : Byte) : (s.putChr i v).prg = s.prg := rfl
@[simp] theorem State.putChr_mirr (i : Nat) (v : Byte) : (s.putChr i v).mirr = s.mirr := rfl
@[simp] theorem State.putChr_ram (i : Nat) (v : Byte) : (s.putChr i v).ram = s.ram := rfl
@[simp] theorem State.putChr_chr (i : Nat) (v : Byte) : (s.putChr i v).chr = s.chr.write i v := rfl
@[simp] theorem State.putChr_map (i : Nat) (v : Byte) : (s.putChr i v).map = s.map := rfl
@[simp] theorem State.putChr_ownRam (i : Nat) (v : Byte) : (s.putChr i v).ownRam = s.ownRam := rfl
@[simp] theorem State.putChr_ownChr (i : Nat) (v : Byte) : (s.putChr i v).ownChr = s.ownChr := rfl
@[simp] theorem State.putChr_phase (i : Nat) (v : Byte) : (s.putChr i v).phase = s.phase := rfl
@[simp] theorem State.putChr_regions (i : Nat) (v : Byte) : (s.putChr i v).regions = s.regions := rfl
@[simp] theorem State.putChr_cheat (i : Nat) (v : Byte) : (s.putChr i v).cheat = s.cheat := rfl
@[simp] theorem State.putChr_pending (i : Nat) (v : Byte) : (s.putChr i v).pending = s.pending := rfl
@[simp] theorem State.putChr_reply (i : Nat) (v : Byte) : (s.putChr i v).reply = s.reply := rfl
@[simp] theorem State.putChr_draws (i : Nat) (v : Byte) : (s.putChr i v).draws = s.draws := rfl

@[simp] theorem State.sync_launch : s.sync.launch = s.launch := rfl
@[simp] theorem State.sync_board : s.sync.board = s.board := rfl
@[simp] theorem State.sync_prg : s.sync.prg = s.prg := rfl
@[simp] theorem State.sync_mirr : s.sync.mirr = s.mirr := rfl
@[simp] theorem State.sync_ram : s.sync.ram = s.ram := rfl
@[simp] theorem State.sync_chr : s.sync.chr = s.chr := rfl
@[simp] theorem State.sync_map : s.sync.map = syncMap s.board s.prg s.mirr := rfl
@[simp] theorem State.sync_ownRam : s.sync.ownRam = s.ownRam := rfl
@[simp] theorem State.sync_ownChr : s.sync.ownChr = s.ownChr := rfl
@[simp] theorem State.sync_phase : s.sync.phase = s.phase := rfl
@[simp] theorem State.sync_regions : s.sync.regions = s.regions := rfl
@[simp] theorem State.sync_cheat : s.sync.cheat = s.cheat := rfl
@[simp] theorem State.sync_pending : s.sync.pending = s.pending := rfl
@[simp] theorem State.sync_reply : s.sync.reply = s.reply := rfl
@[simp] theorem State.sync_draws : s.sync.draws = s.draws := rfl

@[simp] theorem State.countDraw_launch : s.countDraw.launch = s.launch := rfl
@[simp] theorem State.countDraw_board : s.countDraw.board = s.board := rfl
@[simp] theorem State.countDraw_prg : s.countDraw.prg = s.prg := rfl
@[simp] theorem State.countDraw_mirr : s.countDraw.mirr = s.mirr := rfl
@[simp] theorem State.countDraw_ram : s.countDraw.ram = s.ram := rfl
@[simp] theorem State.countDraw_chr : s.countDraw.chr = s.chr := rfl
@[simp] theorem State.countDraw_map : s.countDraw.map = s.map := rfl
@[simp] theorem State.countDraw_ownRam : s.countDraw.ownRam = s.ownRam := rfl
@[simp] theorem State.countDraw_ownChr : s.countDraw.ownChr = s.ownChr := rfl
@[simp] theorem State.countDraw_phase : s.countDraw.phase = s.phase := rfl
@[simp] theorem State.countDraw_regions : s.countDraw.regions = s.regions := rfl
@[simp] theorem State.countDraw_cheat : s.countDraw.cheat = s.cheat := rfl
@[simp] theorem State.countDraw_pending : s.countDraw.pending = s.pending := rfl
@[simp] theorem State.countDraw_reply : s.countDraw.reply = s.reply := rfl
@[simp] theorem State.countDraw_draws : s.countDraw.draws = s.draws + 1 := rfl

@[simp] theorem State.build_launch : s.build.launch = s.launch := rfl
@[simp] theorem State.build_board : s.build.board = s.board := rfl
@[simp] theorem State.build_prg : s.build.prg = 0 := rfl
@[simp] theorem State.build_mirr : s.build.mirr = 0 := rfl
@[simp] theorem State.build_ram : s.build.ram = s.launch.ramInit := rfl
@[simp] theorem State.build_chr : s.build.chr = if s.board.hasChrRam then s.launch.chrInit else s.chr := rfl
@[simp] theorem State.build_map : s.build.map = s.map := rfl
@[simp] theorem State.build_ownRam : s.build.ownRam = true := rfl
@[simp] theorem State.build_ownChr : s.build.ownChr = s.board.hasChrRam := rfl
@[simp] theorem State.build_phase : s.build.phase = .built := rfl
@[simp] theorem State.build_regions : s.build.regions = s.board.regions := rfl
@[simp] theorem State.build_cheat : s.build.cheat = s.cheat := rfl
@[simp] theorem State.build_pending : s.build.pending = s.pending := rfl
@[simp] theorem State.build_reply : s.build.reply = s.reply := rfl
@[simp] theorem State.build_draws : s.build.draws = s.draws := rfl

@[simp] theorem State.goLive_launch : s.goLive.launch = s.launch := rfl
@[simp] theorem State.goLive_board : s.goLive.board = s.board := rfl
@[simp] theorem State.goLive_prg : s.goLive.prg = s.prg := rfl
@[simp] theorem State.goLive_mirr : s.goLive.mirr = s.mirr := rfl
@[simp] theorem State.goLive_ram : s.goLive.ram = s.ram := rfl
@[simp] theorem State.goLive_chr : s.goLive.chr = s.chr := rfl
@[simp] theorem State.goLive_map : s.goLive.map = s.map := rfl
@[simp] theorem State.goLive_ownRam : s.goLive.ownRam = s.ownRam := rfl
@[simp] theorem State.goLive_ownChr : s.goLive.ownChr = s.ownChr := rfl
@[simp] theorem State.goLive_phase : s.goLive.phase = .live := rfl
@[simp] theorem State.goLive_regions : s.goLive.regions = s.regions := rfl
@[simp] theorem State.goLive_cheat : s.goLive.cheat = some (cheatEntry s.board) := rfl
@[simp] theorem State.goLive_pending : s.goLive.pending = s.pending := rfl
@[simp] theorem State.goLive_reply : s.goLive.reply = s.reply := rfl
@[simp] theorem State.goLive_draws : s.goLive.draws = s.draws := rfl

@[simp] theorem State.release_launch : s.release.launch = s.launch := rfl
@[simp] theorem State.release_board : s.release.board = s.board := rfl
@[simp] theorem State.release_prg : s.release.prg = s.prg := rfl
@[simp] theorem State.release_mirr : s.release.mirr = s.mirr := rfl
@[simp] theorem State.release_ram : s.release.ram = if s.ownRam then [] else s.ram := rfl
@[simp] theorem State.release_chr : s.release.chr = if s.ownChr then [] else s.chr := rfl
@[simp] theorem State.release_map : s.release.map = s.map := rfl
@[simp] theorem State.release_ownRam : s.release.ownRam = false := rfl
@[simp] theorem State.release_ownChr : s.release.ownChr = false := rfl
@[simp] theorem State.release_phase : s.release.phase = .closed := rfl
@[simp] theorem State.release_regions : s.release.regions = s.regions := rfl
@[simp] theorem State.release_cheat : s.release.cheat = s.cheat := rfl
@[simp] theorem State.release_pending : s.release.pending = s.pending := rfl
@[simp] theorem State.release_reply : s.release.reply = s.reply := rfl
@[simp] theorem State.release_draws : s.release.draws = s.draws := rfl

@[simp] theorem State.load_launch (img : Image) : (s.load img).launch = s.launch := rfl
@[simp] theorem State.load_board (img : Image) : (s.load img).board = s.board := rfl
@[simp] theorem State.load_prg (img : Image) : (s.load img).prg = ((regionBytes img 0).read 0).extractLsb' 0 5 := rfl
@[simp] theorem State.load_mirr (img : Image) : (s.load img).mirr = mirrField s.board.mirrBits ((regionBytes img 1).read 0) := rfl
@[simp] theorem State.load_ram (img : Image) : (s.load img).ram = regionBytes img 2 := rfl
@[simp] theorem State.load_chr (img : Image) : (s.load img).chr = if s.board.hasChrRam then regionBytes img 3 else s.chr := rfl
@[simp] theorem State.load_map (img : Image) : (s.load img).map = s.map := rfl
@[simp] theorem State.load_ownRam (img : Image) : (s.load img).ownRam = s.ownRam := rfl
@[simp] theorem State.load_ownChr (img : Image) : (s.load img).ownChr = s.ownChr := rfl
@[simp] theorem State.load_phase (img : Image) : (s.load img).phase = s.phase := rfl
@[simp] theorem State.load_regions (img : Image) : (s.load img).regions = s.regions := rfl
@[simp] theorem State.load_cheat (img : Image) : (s.load img).cheat = s.cheat := rfl
@[simp] theorem State.load_pending (img : Image) : (s.load img).pending = s.pending := rfl
@[simp] theorem State.load_reply (img : Image) : (s.load img).reply = s.reply := rfl
@[simp] theorem State.load_draws (img : Image) : (s.load img).draws = s.draws := rfl

@[simp] theorem State.openBusRead_launch : s.openBusRead.launch = s.launch := rfl
@[simp] theorem State.openBusRead_board : s.openBusRead.board = s.board := rfl
@[simp] theorem State.openBusRead_prg : s.openBusRead.prg = s.prg := rfl
@[simp] theorem State.openBusRead_mirr : s.openBusRead.mirr = s.mirr := rfl
@[simp] theorem State.openBusRead_ram : s.openBusRead.ram = s.ram := rfl
@[simp] theorem State.openBusRead_chr : s.openBusRead.chr = s.chr := rfl
@[simp] theorem State.openBusRead_map : s.openBusRead.map = s.map := rfl
@[simp] theorem State.openBusRead_ownRam : s.openBusRead.ownRam = s.ownRam := rfl
@[simp] theorem State.openBusRead_ownChr : s.openBusRead.ownChr = s.ownChr := rfl
@[simp] theorem State.openBusRead_phase : s.openBusRead.phase = s.phase := rfl
@[simp] theorem State.openBusRead_regions : s.openBusRead.regions = s.regions := rfl
@[simp] theorem State.openBusRead_cheat : s.openBusRead.cheat = s.cheat := rfl
@[simp] theorem State.openBusRead_pending : s.openBusRead.pending = s.pending := rfl
@[simp] theorem State.openBusRead_reply : s.openBusRead.reply = .byte (Config.openBus s.draws) := rfl
@[simp] theorem State.openBusRead_draws : s.openBusRead.draws = s.draws + 1 := rfl

@[simp] theorem State.programBankWrite_launch (d : Byte) : (s.programBankWrite d).launch = s.launch := rfl
@[simp] theorem State.programBankWrite_board (d : Byte) : (s.programBankWrite d).board = s.board := rfl
@[simp] theorem State.programBankWrite_prg (d : Byte) : (s.programBankWrite d).prg = shiftIn (prgBit d) s.prg := rfl
@[simp] theorem State.programBankWrite_mirr (d : Byte) : (s.programBankWrite d).mirr = s.mirr := rfl
@[simp] theorem State.programBankWrite_ram (d : Byte) : (s.programBankWrite d).ram = s.ram := rfl
@[simp] theorem State.programBankWrite_chr (d : Byte) : (s.programBankWrite d).chr = s.chr := rfl
@[simp] theorem State.programBankWrite_map (d : Byte) : (s.programBankWrite d).map = syncMap s.board (shiftIn (prgBit d) s.prg) s.mirr := rfl
@[simp] theorem State.programBankWrite_ownRam (d : Byte) : (s.programBankWrite d).ownRam = s.ownRam := rfl
@[simp] theorem State.programBankWrite_ownChr (d : Byte) : (s.programBankWrite d).ownChr = s.ownChr := rfl
@[simp] theorem State.programBankWrite_phase (d : Byte) : (s.programBankWrite d).phase = s.phase := rfl
@[simp] theorem State.programBankWrite_regions (d : Byte) : (s.programBankWrite d).regions = s.regions := rfl
@[simp] theorem State.programBankWrite_cheat (d : Byte) : (s.programBankWrite d).cheat = s.cheat := rfl
@[simp] theorem State.programBankWrite_pending (d : Byte) : (s.programBankWrite d).pending = s.pending := rfl
@[simp] theorem State.programBankWrite_reply (d : Byte) : (s.programBankWrite d).reply = .none := rfl
@[simp] theorem State.programBankWrite_draws (d : Byte) : (s.programBankWrite d).draws = s.draws := rfl

end Sys2Proof.Machine
end

