-- ==== Sys2Proof/Laws/Ops.lean ====
section
/-! SUPPORT. What each shared operation can do, said once: admission, the register updates as arithmetic, the
window offsets, the reduction of a bank, reads of program memory, and the fetch. -/

namespace Sys2Proof

/-- R117: "`b << 4` is 0 or 16", `PRG >> 1` is `floor(PRG / 2)`, and "the two have no bit in common". -/
theorem shiftIn_toNat (d : Byte) (p : BitVec 5) :
    (shiftIn (prgBit d) p).toNat = 16 * (d.toNat % 2) + p.toNat / 2 := by
  have hb : ∀ (b : BitVec 1) (p : BitVec 5), (shiftIn b p).toNat = 16 * b.toNat + p.toNat / 2 := by decide
  rw [hb]
  simp [prgBit, BitVec.extractLsb'_toNat]

theorem mirrField_toNat (w : MirrBits) (d : Byte) : (mirrField w d).toNat = d.toNat % 2 ^ w.width := by
  cases w <;> simp [mirrField, MirrBits.width, BitVec.extractLsb'_toNat]
  omega

theorem mirrField_lt (w : MirrBits) (d : Byte) : (mirrField w d).toNat < 2 ^ w.width := by
  rw [mirrField_toNat]; exact Nat.mod_lt _ (Nat.two_pow_pos _)

/-- R152: "`index & (PRG_BANKS - 1)` with `PRG_BANKS` a power of two equals `index mod PRG_BANKS`". -/
theorem reduceBank_toNat {b : Board} (h : b.banksOk = true) (x : BitVec 5) :
    (b.reduceBank x).toNat = x.toNat % b.prgBanks := by
  have hb : ∀ n ∈ [1, 2, 4, 8, 16, 32], ∀ x : BitVec 5, (x &&& BitVec.ofNat 5 (n - 1)).toNat = x.toNat % n := by
    decide
  exact hb _ (by simpa [Board.banksOk] using h) x

theorem reduceBank_lt {b : Board} (h : b.banksOk = true) (x : BitVec 5) : (b.reduceBank x).toNat < b.prgBanks := by
  rw [reduceBank_toNat h]
  refine Nat.mod_lt _ ?_
  simp [Board.banksOk] at h
  omega

/-- The last bank: `0b11111 & (PRG_BANKS - 1) = PRG_BANKS - 1` (R137). -/
theorem reduceBank_last {b : Board} (h : b.banksOk = true) : (b.reduceBank 0b11111).toNat = b.prgBanks - 1 := by
  have hb : ∀ n ∈ [1, 2, 4, 8, 16, 32], ((0b11111 : BitVec 5) &&& BitVec.ofNat 5 (n - 1)).toNat = n - 1 := by decide
  exact hb _ (by simpa [Board.banksOk] using h)

/-- "The index is always below `PRG_BANKS * 16384`" (R146). -/
theorem romIndex_lt {b : Board} {bank : BitVec 5} (h : bank.toNat < b.prgBanks) (off : BitVec 14) :
    romIndex bank off < b.romSize := by
  have := off.isLt
  simp only [romIndex, Board.romSize, bankSize] at *
  omega

theorem inRange_iff {base size a : Nat} : inRange base size a = true ↔ base ≤ a ∧ a < base + size := by
  simp [inRange]

/-- R152: `A - base` for `A` inside the window "cannot borrow". -/
theorem offsetIn_toNat {n base : Nat} {a : Nat} (h : inRange base (2 ^ n) a = true) :
    (offsetIn n base a).toNat = a - base := by
  rw [inRange_iff] at h
  simp only [offsetIn, BitVec.toNat_ofNat]
  exact Nat.mod_eq_of_lt (by omega)

theorem accepted_parts {b : Board} (h : b.accepted = true) : b.banksOk = true ∧ b.cfgOk = true ∧ b.mapOk = true := by
  simpa [Board.accepted, and_assoc] using h

namespace Machine

/-- An admitted operation answers what it does; one that is not admitted answers no next state. -/
theorem whenAdmitted_next {c : OpClass} {s t : State} {run : Host.Outcome State Fault Refusal} :
    whenAdmitted c s run = .next t ↔ admission c s.phase = none ∧ run = .next t := by
  unfold whenAdmitted
  split <;> simp_all

/-- The same for an operation that has one next state. -/
theorem whenAdmitted_run_next {c : OpClass} {s t u : State} :
    whenAdmitted c s (.next u) = .next t ↔ admission c s.phase = none ∧ t = u := by
  rw [whenAdmitted_next, Host.Outcome.next.injEq, eq_comm (a := u)]

theorem whenAdmitted_of_none {c : OpClass} {s : State} (run : Host.Outcome State Fault Refusal)
    (h : admission c s.phase = none) : whenAdmitted c s run = run := by
  simp [whenAdmitted, h]

theorem whenAdmitted_of_some {c : OpClass} {s : State} {r : Refusal} (run : Host.Outcome State Fault Refusal)
    (h : admission c s.phase = some r) : whenAdmitted c s run = .refused r := by
  simp [whenAdmitted, h]

@[simp] theorem admission_construct {p : Phase} : admission .construct p = none ↔ p = .none := by
  cases p <;> simp [admission]
@[simp] theorem admission_power {p : Phase} : admission .power p = none ↔ p = .built ∨ p = .live := by
  cases p <;> simp [admission]
@[simp] theorem admission_bus {p : Phase} : admission .bus p = none ↔ p = .live := by
  cases p <;> simp [admission]
@[simp] theorem admission_save {p : Phase} : admission .save p = none ↔ p = .live := by
  cases p <;> simp [admission]
@[simp] theorem admission_restore {p : Phase} : admission .restore p = none ↔ p = .live := by
  cases p <;> simp [admission]
@[simp] theorem admission_close {p : Phase} : admission .close p = none ↔ p ≠ .none := by
  cases p <;> simp [admission]

theorem readRom_next {i : Nat} {s t : State} :
    readRom i s = .next t ↔ i < s.board.romSize ∧ t = s.answer (.byte (s.launch.rom.read i)) := by
  unfold readRom
  split <;> simp_all [eq_comm]

/-- What a step can do: nothing, when nothing is listed; else it runs the operation the first request decodes
to, with that request taken off the list. -/
theorem step_cases {s t : State} (h : step s = .next t) :
    (s.pending = [] ∧ t = s) ∨
    ∃ r rest i, s.pending = r :: rest ∧ decode s.board r = .ok i ∧ exec i { s with pending := rest } = .next t := by
  unfold step State.fetch at h
  cases hp : s.pending with
  | nil =>
    simp only [hp, Host.Outcome.next.injEq] at h
    exact .inl ⟨rfl, h.symm⟩
  | cons r rest =>
    simp only [hp] at h
    cases hd : decode s.board r with
    | error e => simp [hd] at h
    | ok i =>
      simp only [hd] at h
      exact .inr ⟨r, rest, i, rfl, hd, h⟩

/-! ### When an operation answers a next state, and which -/

theorem exec_prgwAh_next {off : BitVec 13} {d : Byte} {s t : State} :
    exec (.prgwAh off d) s = .next t ↔ s.phase = .live ∧ t = s.programBankWrite d := by
  simp [exec, execPrgwAh, whenAdmitted_run_next]

theorem exec_prgwAhsr_next {off : BitVec 13} {d : Byte} {s t : State} :
    exec (.prgwAhsr off d) s = .next t ↔ s.phase = .live ∧ t = s.programBankWrite d := by
  simp [exec, execPrgwAhsr, whenAdmitted_run_next]

theorem exec_mirw_next {off : BitVec 13} {d : Byte} {s t : State} :
    exec (.mirw off d) s = .next t ↔
      s.phase = .live ∧ t = ((s.putMirr (mirrField s.board.mirrBits d)).sync).answer .none := by
  simp [exec, execMirw, whenAdmitted_run_next]

theorem exec_ramw_next {off : BitVec 13} {v : Byte} {s t : State} :
    exec (.ramw off v) s = .next t ↔ s.phase = .live ∧ t = (s.putRam off.toNat v).answer .none := by
  simp [exec, execRamw, whenAdmitted_run_next]

theorem exec_wnop_next {a : Nat} {d : Byte} {s t : State} :
    exec (.wnop a d) s = .next t ↔ s.phase = .live ∧ t = s.answer .none := by
  simp [exec, execWnop, whenAdmitted_run_next]

theorem exec_extw_next {a : Nat} {d : Byte} {s t : State} :
    exec (.extw a d) s = .next t ↔ s.phase = .live ∧ t = s.answer .none := by
  simp [exec, execExtw, whenAdmitted_run_next]

theorem exec_rdram_next {off : BitVec 13} {s t : State} :
    exec (.rdram off) s = .next t ↔ s.phase = .live ∧ t = s.answer (.byte (s.ram.read off.toNat)) := by
  simp [exec, execRdram, whenAdmitted_run_next]

theorem exec_rdlo_next {off : BitVec 14} {s t : State} :
    exec (.rdlo off) s = .next t ↔ s.phase = .live ∧ romIndex s.map.prgLo off < s.board.romSize ∧
      t = s.answer (.byte (s.launch.rom.read (romIndex s.map.prgLo off))) := by
  simp [exec, execRdlo, whenAdmitted_next, readRom_next]

theorem exec_rdhi_next {off : BitVec 14} {s t : State} :
    exec (.rdhi off) s = .next t ↔ s.phase = .live ∧ romIndex s.map.prgHi off < s.board.romSize ∧
      t = s.answer (.byte (s.launch.rom.read (romIndex s.map.prgHi off))) := by
  simp [exec, execRdhi, whenAdmitted_next, readRom_next]

theorem exec_extr_next {a : Nat} {s t : State} :
    exec (.extr a) s = .next t ↔ s.phase = .live ∧ t = s.openBusRead := by
  simp [exec, execExtr, whenAdmitted_run_next]

theorem exec_chrrd_next {off : BitVec 13} {s t : State} :
    exec (.chrrd off) s = .next t ↔ s.phase = .live ∧ t = s.chrWindowRead off := by
  simp [exec, execChrrd, whenAdmitted_run_next]

theorem exec_chrwr_next {off : BitVec 13} {v : Byte} {s t : State} :
    exec (.chrwr off v) s = .next t ↔ s.phase = .live ∧ t = s.chrWindowWrite off v := by
  simp [exec, execChrwr, whenAdmitted_run_next]

theorem exec_chrext_next {pa : Nat} {acc : Access} {s t : State} :
    exec (.chrext pa acc) s = .next t ↔ s.phase = .live ∧
      t = (match acc with | .read => s.openBusRead | .write _ => s.answer .none) := by
  cases acc <;> simp [exec, execChrext, whenAdmitted_run_next]

theorem exec_ntsel_next {pa : BitVec 13} {acc : Access} {s t : State} :
    exec (.ntsel pa acc) s = .next t ↔ s.phase = .live ∧ t = s.answer (.half (ntHalf s.map.mirror pa)) := by
  simp [exec, execNtsel, whenAdmitted_run_next]

theorem exec_construct_next {s t : State} :
    exec .construct s = .next t ↔ s.phase = .none ∧ s.board.accepted = true ∧ t = s.build.answer .none := by
  simp only [exec, execConstruct, whenAdmitted_next, admission_construct, Board.accepted]
  cases s.board.banksOk <;> cases s.board.cfgOk <;> cases s.board.mapOk <;> simp [eq_comm]

theorem exec_power_next {s t : State} :
    exec .power s = .next t ↔ (s.phase = .built ∨ s.phase = .live) ∧ t = s.sync.goLive.answer .none := by
  simp [exec, execPower, whenAdmitted_run_next]

theorem exec_save_next {s t : State} :
    exec .save s = .next t ↔ s.phase = .live ∧ t = s.answer (.image (saveImage s)) := by
  simp [exec, execSave, whenAdmitted_run_next]

theorem exec_restore_next {img : Image} {s t : State} :
    exec (.restore img) s = .next t ↔
      s.phase = .live ∧ imageOk s.board img = true ∧ t = (s.load img).sync.answer .none := by
  simp only [exec, execRestore, whenAdmitted_next, admission_restore]
  cases imageOk s.board img <;> simp [eq_comm]

theorem exec_close_next {s t : State} :
    exec .close s = .next t ↔ s.phase ≠ .none ∧ t = s.release.answer .none := by
  simp [exec, execClose, whenAdmitted_run_next]

theorem exec_sync_next {s t : State} : exec .sync s = .next t ↔ t = s.sync := by
  simp [exec, execSync, eq_comm]

/-- A read of the graphics window changes at most the reply and the count of draws. -/
theorem chrWindowRead_sameBlock (s : State) (off : BitVec 13) : sameBlock s (s.chrWindowRead off) := by
  unfold sameBlock State.chrWindowRead
  split <;> rfl

end Machine

end Sys2Proof
end

