-- ==== Sys2Proof/Laws/PerInstr.lean ====
section
/-! SUPPORT. One fact per operation, as syntax: an operation that is well formed for a board has a word, and it
is of the format the table of R92 gives the operation. -/

namespace Sys2Proof.Laws.WordOfFormat

/-- The column "format" of R92's table; SYNC is internal. -/
def formatOf : Instr → Option Format
  | .prgwAh _ _ | .prgwAhsr _ _ | .mirw _ _ | .ramw _ _ | .wnop _ _ | .extw _ _ => some .cpu
  | .rdram _ | .rdlo _ | .rdhi _ | .extr _ => some .cpu
  | .chrrd _ | .chrwr _ _ | .chrext _ _ | .ntsel _ _ => some .ppu
  | .construct | .power | .save | .restore _ | .close => some .host
  | .sync => none

/-- Well-formed operations have a word of their format. -/
def Statement (i : Instr) : Prop :=
  ∀ b : Board, i.wellFormed b = true → (encode b i).map Request.format = formatOf i ∧ formatOf i ≠ none

theorem prgwAh (off : BitVec 13) (d : Byte) : Statement (.prgwAh off d) := fun _ _ => ⟨rfl, nofun⟩
theorem prgwAhsr (off : BitVec 13) (d : Byte) : Statement (.prgwAhsr off d) := fun _ _ => ⟨rfl, nofun⟩
theorem mirw (off : BitVec 13) (d : Byte) : Statement (.mirw off d) := fun _ _ => ⟨rfl, nofun⟩
theorem ramw (off : BitVec 13) (v : Byte) : Statement (.ramw off v) := fun _ _ => ⟨rfl, nofun⟩
theorem wnop (a : Nat) (d : Byte) : Statement (.wnop a d) := fun _ _ => ⟨rfl, nofun⟩
theorem extw (a : Nat) (d : Byte) : Statement (.extw a d) := fun _ _ => ⟨rfl, nofun⟩
theorem rdram (off : BitVec 13) : Statement (.rdram off) := fun _ _ => ⟨rfl, nofun⟩
theorem rdlo (off : BitVec 14) : Statement (.rdlo off) := fun _ _ => ⟨rfl, nofun⟩
theorem rdhi (off : BitVec 14) : Statement (.rdhi off) := fun _ _ => ⟨rfl, nofun⟩
theorem extr (a : Nat) : Statement (.extr a) := fun _ _ => ⟨rfl, nofun⟩
theorem chrrd (off : BitVec 13) : Statement (.chrrd off) := fun _ _ => ⟨rfl, nofun⟩
theorem chrwr (off : BitVec 13) (v : Byte) : Statement (.chrwr off v) := fun _ _ => ⟨rfl, nofun⟩
theorem chrext (pa : Nat) (acc : Access) : Statement (.chrext pa acc) := fun _ _ => ⟨rfl, nofun⟩
theorem ntsel (pa : BitVec 13) (acc : Access) : Statement (.ntsel pa acc) := fun _ _ => ⟨rfl, nofun⟩
theorem construct : Statement .construct := fun _ _ => ⟨rfl, nofun⟩
theorem power : Statement .power := fun _ _ => ⟨rfl, nofun⟩
theorem save : Statement .save := fun _ _ => ⟨rfl, nofun⟩
theorem restore (img : Image) : Statement (.restore img) := fun _ _ => ⟨rfl, nofun⟩
theorem close : Statement .close := fun _ _ => ⟨rfl, nofun⟩
theorem sync : Statement .sync := fun _ h => nomatch h

end Sys2Proof.Laws.WordOfFormat
end

