-- ==== Sys2Proof/Laws/Words.lean ====
section
/-! SUPPORT. The fields of a bus word (30_encoding.md R80, R81) and the offsets of an address in a window (R86): reading
back what was put in, and putting back what was read, whatever the width of the address. -/

namespace Sys2Proof

/-- `W` is what remains above the address and the data. -/
theorem busIsWrite_eq (n t : Nat) : busIsWrite n t = decide (t / 2 ^ (n + 8) % 2 = 1) := by
  rw [busIsWrite, Nat.testBit_eq_decide_div_mod_eq]

@[simp] theorem busData_busWord (n : Nat) (w : Bool) (a : Nat) (d : Byte) : busData (busWord n w a d) = d := by
  apply BitVec.eq_of_toNat_eq
  have hd := d.isLt
  have hw : w.toNat * 2 ^ (n + 8) + a * 2 ^ 8 + d.toNat = d.toNat + 2 ^ 8 * (w.toNat * 2 ^ n + a) := by
    rw [Nat.pow_add]; ring
  rw [busData, BitVec.toNat_ofNat, busWord, hw, Nat.add_mul_mod_self_left, Nat.mod_eq_of_lt hd]

/-- What stands above the data of a bus word. -/
theorem busWord_high (n : Nat) (w : Bool) (a : Nat) (d : Byte) : busWord n w a d / 2 ^ 8 = w.toNat * 2 ^ n + a := by
  have hd := d.isLt
  have hw : busWord n w a d = d.toNat + 2 ^ 8 * (w.toNat * 2 ^ n + a) := by
    rw [busWord, Nat.pow_add]; ring
  rw [hw, Nat.add_mul_div_left _ _ (Nat.two_pow_pos 8), Nat.div_eq_of_lt hd, Nat.zero_add]

@[simp] theorem busAddr_busWord {n : Nat} (w : Bool) {a : Nat} (d : Byte) (h : a < 2 ^ n) :
    busAddr n (busWord n w a d) = a := by
  rw [busAddr, busWord_high, Nat.add_comm, Nat.add_mul_mod_self_right, Nat.mod_eq_of_lt h]

@[simp] theorem busIsWrite_busWord {n : Nat} (w : Bool) {a : Nat} (d : Byte) (h : a < 2 ^ n) :
    busIsWrite n (busWord n w a d) = w := by
  rw [busIsWrite_eq, Nat.add_comm n 8, Nat.pow_add, ← Nat.div_div_eq_div_mul, busWord_high, Nat.add_comm,
    Nat.add_mul_div_right _ _ (Nat.two_pow_pos n), Nat.div_eq_of_lt h, Nat.zero_add]
  cases w <;> rfl

theorem busAddr_lt (n t : Nat) : busAddr n t < 2 ^ n := Nat.mod_lt _ (Nat.two_pow_pos n)

/-- A bus word is its three fields. -/
theorem busWord_fields {n t : Nat} (h : t < 2 ^ (n + 9)) : busWord n (busIsWrite n t) (busAddr n t) (busData t) = t := by
  have hb : (busIsWrite n t).toNat = t / 2 ^ 8 / 2 ^ n := by
    rw [busIsWrite_eq, Nat.div_div_eq_div_mul, ← Nat.pow_add, Nat.add_comm 8 n]
    have : t / 2 ^ (n + 8) < 2 := by
      rw [Nat.div_lt_iff_lt_mul (Nat.two_pow_pos _), Nat.mul_comm, ← Nat.pow_succ]; exact h
    generalize t / 2 ^ (n + 8) = k at this ⊢
    rcases (show k = 0 ∨ k = 1 by omega) with e | e <;> simp [e]
  have hd : (busData t).toNat = t % 2 ^ 8 := BitVec.toNat_ofNat _ _
  rw [busWord, hb, hd, busAddr, Nat.add_comm n 8, Nat.pow_add, ← Nat.mul_assoc, Nat.mul_right_comm, ← Nat.add_mul,
    Nat.mul_comm (t / 2 ^ 8 / 2 ^ n), Nat.div_add_mod, Nat.mul_comm, Nat.div_add_mod]

/-- A write word decodes by its address and its data (R83). -/
theorem decode_cpuWrite {b : Board} {a : Nat} (d : Byte) (h : a < 2 ^ b.addrW) :
    decode b (.cpu (cpuWord b true a d)) = .ok (decodeCpuWrite b a d) := by
  simp [decode, decodeCpu, cpuWord, h]

/-- A read word decodes by its address (R83). -/
theorem decode_cpuRead {b : Board} {a : Nat} (d : Byte) (h : a < 2 ^ b.addrW) :
    decode b (.cpu (cpuWord b false a d)) = .ok (decodeCpuRead b a) := by
  simp [decode, decodeCpu, cpuWord, h]

/-- A `PPU` word decodes by its address and its direction (R84). -/
theorem decode_ppuWord {b : Board} (w : Bool) {pa : Nat} (d : Byte) (h : pa < 2 ^ b.ppuAddrW) :
    decode b (.ppu (ppuWord b w pa d)) = .ok (decodePpuAccess b pa (if w then .write d else .read)) := by
  simp [decode, decodePpu, ppuWord, h]

/-- The word of a `PPU` access decodes to that access (R84). -/
theorem decode_ppuAccess {b : Board} {pa : Nat} (acc : Access) (h : pa < 2 ^ b.ppuAddrW) :
    decode b (.ppu (ppuAccess b pa acc)) = .ok (decodePpuAccess b pa acc) := by
  cases acc <;> simp [ppuAccess, decode_ppuWord _ _ h]

/-- The offset of the address at an offset. -/
theorem offsetIn_addrAt {n base : Nat} (off : BitVec n) : offsetIn n base (addrAt base off) = off := by
  apply BitVec.eq_of_toNat_eq
  rw [offsetIn, addrAt, Nat.add_sub_cancel_left, BitVec.toNat_ofNat, Nat.mod_eq_of_lt off.isLt]

/-- The address at the offset of an address of the window. -/
theorem addrAt_offsetIn {n base : Nat} {a : Nat} (h : inRange base (2 ^ n) a = true) :
    addrAt base (offsetIn n base a) = a := by
  rw [addrAt, offsetIn_toNat h, Nat.add_sub_cancel' (inRange_iff.mp h).1]

/-- The address at an offset lies in the window. -/
theorem inRange_addrAt {n base : Nat} (off : BitVec n) : inRange base (2 ^ n) (addrAt base off) = true :=
  inRange_iff.mpr ⟨Nat.le_add_right _ _, Nat.add_lt_add_left off.isLt _⟩

/-- The graphics window and the video-RAM range share no address (R56). -/
theorem inVideoRam_eq_false {pa : Nat} (h : inGraphics pa = true) : inVideoRam pa = false := by
  rw [inGraphics, inRange_iff] at h
  simp only [inVideoRam, inRange, Bool.and_eq_false_iff, decide_eq_false_iff_not]; omega

/-- On 14 bits of address `PA[13]` tells the two ranges of the PPU bus apart (R84). -/
theorem inVideoRam_eq_bit13 {pa : Nat} (h : pa < 2 ^ 14) : inVideoRam pa = pa.testBit 13 := by
  rw [inVideoRam, inRange, Nat.testBit_eq_decide_div_mod_eq, ← Bool.decide_and, decide_eq_decide]; omega

/-- On 14 bits of address every PPU address is in one of the two ranges (R56). -/
theorem inGraphics_eq_not_bit13 {pa : Nat} (h : pa < 2 ^ 14) : inGraphics pa = !pa.testBit 13 := by
  rw [inGraphics, inRange, Nat.testBit_eq_decide_div_mod_eq, ← Bool.decide_and, ← decide_not, decide_eq_decide]; omega

end Sys2Proof
end

