-- ==== Sys2Proof/Tests/Slice0.lean ====
section
/-! SUPPORT. The model's own tests. Expected results are taken from spec/95_test_vectors.md (the vector's name stands
before the test) and from the rules named; the last part shows, for each statement with hypotheses, a state and
operands that meet them. -/

namespace Sys2Proof.Tests

open Sys2Proof.Machine

/-! ### Boards, states and readers of an outcome -/

/-- The default board under the other shift discipline. -/
def ahsrBoard : Board := { Board.default with shift := .appendHighShiftRight }
/-- The default board without graphics RAM. -/
def plainBoard : Board := { Board.default with hasChrRam := false }
/-- Eight banks, `CFG = CFG_V`, no graphics RAM (F2). -/
def smallBoard : Board := { Board.default with hasChrRam := false, prgBanks := 8, cfg := 1 }

/-- A launch of a board with a few bytes of program memory (K1, K3, K8, K10) and of drawn RAM. -/
def launchOf (b : Board) : Launch where
  board := b
  rom := [(0x0, 0x11), (0xC010, 0x31), (0x14000, 0x22), (0x1C000, 0x44), (0x1FFFF, 0x66)]
  ramInit := [(1, 0x99), (0x1FFF, 0x42)]
  chrInit := [(0, 0x55)]

/-- A board right after BOOT. -/
def live (b : Board) : State := State.freshLive (launchOf b) []
/-- The board after CONSTRUCT. -/
def built (b : Board) : State := (State.start (launchOf b) ⟨3, 3, .notDriven, .v⟩ []).build
/-- The board before CONSTRUCT. -/
def fresh (b : Board) : State := State.start (launchOf b) ⟨3, 3, .notDriven, .v⟩ []
/-- The default board, live. -/
def demo : State := live Board.default
/-- The default board, closed. -/
def shut : State := demo.release.answer .none

/-- A live state with registers `p` and `m`, and the mapping that is theirs. -/
def withRegs (p : BitVec 5) (m : BitVec 2) (s : State) : State := ((s.putPrg p).putMirr m).sync

/-- The next state, where there is one. -/
def nextOf : Host.Outcome State Fault Refusal → Option State
  | .next t => some t
  | .fault _ => none
  | .refused _ => none
/-- The refusal, where there is one. -/
def refusedBy : Host.Outcome State Fault Refusal → Option Refusal
  | .next _ => none
  | .fault _ => none
  | .refused r => some r
/-- The fault, where there is one. -/
def faultOf : Host.Outcome State Fault Refusal → Option Fault
  | .next _ => none
  | .fault f => some f
  | .refused _ => none

/-- The step that one listed request causes. -/
def stepOn (r : Request) (s : State) : Host.Outcome State Fault Refusal := step { s with pending := [r] }
/-- The program-bank register after it. -/
def prgAfter (o : Host.Outcome State Fault Refusal) : Option Nat := (nextOf o).map (·.prg.toNat)
/-- The mapping after it. -/
def mapAfter (o : Host.Outcome State Fault Refusal) : Option Mapping := (nextOf o).map (·.map)
/-- What it gives back. -/
def replyOf (o : Host.Outcome State Fault Refusal) : Option Reply := (nextOf o).map (·.reply)

/-- What a request decodes to. -/
def decoded (b : Board) (r : Request) : Option Instr := (decode b r).toOption

/-! ### Decoding: words from the tables of R80 to R84, `W`, then the address, then the data -/

-- W = 1, A = 111 0000000000000, D = 00000001 (P1); the last address of the range (P13)
theorem test_decode_prgwAh : decoded Board.default (.cpu 0b1111000000000000000000001) = some (.prgwAh 0 1) ∧
    decoded Board.default (.cpu 0x1FFFF01) = some (.prgwAh 0x1FFF 1) := by decide
theorem test_decode_prgwAhsr : decoded ahsrBoard (.cpu 0b1111000000000000000000001) = some (.prgwAhsr 0 1) := by decide
-- A = 100 1111111111111, D = 00000011 (M7)
theorem test_decode_mirw : decoded Board.default (.cpu 0b1100111111111111100000011) = some (.mirw 0x1FFF 3) := by decide
-- A = 011 1111111111111, D = 01011010 (A3)
theorem test_decode_ramw : decoded Board.default (.cpu 0b1011111111111111101011010) = some (.ramw 0x1FFF 0x5A) := by decide
-- A6, A7, P15
theorem test_decode_wnop : decoded Board.default (.cpu 0b1101000000000000011111111) = some (.wnop 0xA000 0xFF) ∧
    decoded Board.default (.cpu 0x1C00001) = some (.wnop 0xC000 1) ∧
    decoded Board.default (.cpu 0x1DFFF01) = some (.wnop 0xDFFF 1) := by decide
-- A8, A9, A10
theorem test_decode_extw : decoded Board.default (.cpu 0b1010111111111111100000001) = some (.extw 0x5FFF 1) ∧
    decoded Board.default (.cpu 0x1000001) = some (.extw 0 1) ∧
    decoded Board.default (.cpu 0x1402001) = some (.extw 0x4020 1) := by decide
-- K14, K15
theorem test_decode_rdram : decoded Board.default (.cpu 0b0011000000000000000000000) = some (.rdram 0) ∧
    decoded Board.default (.cpu 0x07FFF00) = some (.rdram 0x1FFF) := by decide
-- K5, K6, K4
theorem test_decode_rdlo : decoded Board.default (.cpu 0b0100000000000000000000000) = some (.rdlo 0) ∧
    decoded Board.default (.cpu 0x09FFF00) = some (.rdlo 0x1FFF) ∧
    decoded Board.default (.cpu 0x0BFFF00) = some (.rdlo 0x3FFF) := by decide
-- K7, K9, K8
theorem test_decode_rdhi : decoded Board.default (.cpu 0b0110000000000000000000000) = some (.rdhi 0) ∧
    decoded Board.default (.cpu 0x0E00000) = some (.rdhi 0x2000) ∧
    decoded Board.default (.cpu 0x0FFFF00) = some (.rdhi 0x3FFF) := by decide
-- K16, K17
theorem test_decode_extr : decoded Board.default (.cpu 0b0010000000000000000000000) = some (.extr 0x4000) ∧
    decoded Board.default (.cpu 0) = some (.extr 0) := by decide
-- W = 0, PA = 0 1111111111111 (G4)
theorem test_decode_chrrd : decoded Board.default (.ppu 0b00111111111111100000000) = some (.chrrd 0x1FFF) := by decide
-- W = 1, PA = 0, D = 00111100 (G1)
theorem test_decode_chrwr : decoded Board.default (.ppu 0b10000000000000000111100) = some (.chrwr 0 0x3C) := by decide
-- G6, G7
theorem test_decode_chrext : decoded plainBoard (.ppu 0) = some (.chrext 0 .read) ∧
    decoded plainBoard (.ppu 0b10000000001000010011001) = some (.chrext 0x10 (.write 0x99)) := by decide
-- G12, G13
theorem test_decode_ntsel : decoded Board.default (.ppu 0b01101000000000000000000) = some (.ntsel 0x1400 .read) ∧
    decoded Board.default (.ppu 0x600011) = some (.ntsel 0 (.write 0x11)) := by decide
-- R82
theorem test_decode_host : decoded Board.default (.host 0 []) = some .construct ∧
    decoded Board.default (.host 1 []) = some .power ∧ decoded Board.default (.host 2 []) = some .save ∧
    decoded Board.default (.host 3 []) = some (.restore []) ∧ decoded Board.default (.host 4 []) = some .close ∧
    decoded Board.default (.host 5 []) = none ∧ decoded Board.default (.host 7 []) = none := by decide

-- R8: on buses of other widths `W` stands above the address; R56: no mirror of the two ranges above 0x3FFF
theorem test_decode_wide : decoded { Board.default with addrW := 20 } (.cpu 0x10E00001) = some (.prgwAh 0 1) ∧
    decoded { Board.default with addrW := 20 } (.cpu 0x1E00001) = some (.extr 0x1E000) ∧
    decoded { Board.default with ppuAddrW := 15 } (.ppu 0x80003C) = some (.chrwr 0 0x3C) ∧
    decoded { Board.default with ppuAddrW := 15 } (.ppu 0x3FFF00) = some (.ntsel 0x1FFF .read) ∧
    decoded { Board.default with ppuAddrW := 15 } (.ppu 0x400000) = some (.chrext 0x4000 .read) ∧
    decoded { Board.default with ppuAddrW := 15 } (.ppu 0xE00011) = some (.chrext 0x6000 (.write 0x11)) ∧
    decoded { Board.default with ppuAddrW := 13 } (.ppu 0x1FFF00) = some (.chrrd 0x1FFF) := by decide

-- The same words through the host's table form: 32, 24 and 8 bits for the three formats.
theorem test_table_cpu : decodeTableWord 32 0x1E00001 = some (.prgwAh 0 1) ∧
    decodeTableWord 25 0x0FFFF00 = some (.rdhi 0x3FFF) := by decide
theorem test_table_ppu : decodeTableWord 24 0x40003C = some (.chrwr 0 0x3C) ∧
    decodeTableWord 23 0x340000 = some (.ntsel 0x1400 .read) := by decide
theorem test_table_host : decodeTableWord 8 4 = some .close ∧ decodeTableWord 3 1 = some .power ∧
    decodeTableWord 8 5 = none := by decide
theorem test_table_rejects : decodeTableWord 16 0 = none ∧ decodeTableWord 32 0x2000000 = none ∧
    decodeTableWord 24 0x800000 = none ∧ decodeTableWord 8 8 = none := by decide
-- The first step after reset runs the word placed for it.
theorem test_first_step_runs_the_word : prgAfter (step (State.reset.withFetchWord 32 0x1E00001)) = some 16 := by decide

/-! ### Well-formedness: one ill-formed operation for each check -/

theorem test_illFormed_prgwAh : (Instr.prgwAh 0 1).wellFormed ahsrBoard = false := by decide
theorem test_illFormed_prgwAhsr : (Instr.prgwAhsr 0 1).wellFormed Board.default = false := by decide
theorem test_illFormed_wnop : (Instr.wnop 0xE000 1).wellFormed Board.default = false ∧
    (Instr.wnop 0x5FFF 1).wellFormed Board.default = false := by decide
theorem test_illFormed_extw : (Instr.extw 0x6000 1).wellFormed Board.default = false ∧
    (Instr.extw 0xA000 1).wellFormed Board.default = false := by decide
theorem test_illFormed_width : (Instr.extr 0x10000).wellFormed Board.default = false ∧
    (Instr.wnop 0x1A000 1).wellFormed Board.default = false ∧ (Instr.extw 0x10000 1).wellFormed Board.default = false ∧
    (Instr.chrrd 0x1FFF).wellFormed { Board.default with ppuAddrW := 12 } = false ∧
    (Instr.chrwr 0x1FFF 1).wellFormed { Board.default with ppuAddrW := 12 } = false ∧
    (Instr.chrext 0x1FFF .read).wellFormed { plainBoard with ppuAddrW := 12 } = false ∧
    (Instr.ntsel 0 .read).wellFormed { Board.default with ppuAddrW := 13 } = false := by decide
theorem test_illFormed_extr : (Instr.extr 0x6000).wellFormed Board.default = false ∧
    (Instr.extr 0x8000).wellFormed Board.default = false ∧
    (Instr.extr 0xFFFF).wellFormed Board.default = false := by decide
theorem test_illFormed_chrrd : (Instr.chrrd 0).wellFormed plainBoard = false := by decide
theorem test_illFormed_chrwr : (Instr.chrwr 0 1).wellFormed plainBoard = false := by decide
theorem test_illFormed_chrext : (Instr.chrext 0 .read).wellFormed Board.default = false ∧
    (Instr.chrext 0x2000 .read).wellFormed plainBoard = false ∧
    (Instr.chrext 0x4000 .read).wellFormed Board.default = false ∧
    (Instr.chrext 0x4000 .read).wellFormed { Board.default with ppuAddrW := 15 } = true := by decide
theorem test_illFormed_sync : Instr.sync.wellFormed Board.default = false := by decide
theorem test_wellFormed_operations : (Instr.prgwAh 0 1).wellFormed Board.default = true ∧
    (Instr.prgwAhsr 0 1).wellFormed ahsrBoard = true ∧ (Instr.wnop 0xDFFF 1).wellFormed Board.default = true ∧
    (Instr.extw 0x5FFF 1).wellFormed Board.default = true ∧ (Instr.extr 0x5FFF).wellFormed Board.default = true ∧
    (Instr.chrext 0 .read).wellFormed plainBoard = true := by decide

/-! ### The parameters CONSTRUCT checks -/

-- R53 to R55: the defaults; F19, F20; R55(e), windows beyond a 15-bit address space
theorem test_default_board_accepted : Board.default.accepted = true := by decide
theorem test_map_refused : ({ Board.default with mirrBase := 0xE000 } : Board).mapOk = false ∧
    ({ Board.default with ramBase := 0x6100 } : Board).mapOk = false ∧
    ({ Board.default with addrW := 15 } : Board).mapOk = false ∧
    ({ Board.default with addrW := 17 } : Board).mapOk = true := by decide
-- R138; B9, B10
theorem test_banks_refused : ({ Board.default with prgBanks := 12 } : Board).banksOk = false ∧
    ({ Board.default with prgBanks := 64 } : Board).banksOk = false := by decide

/-! ### Bank reduction and the mapping (2.2, 2.4) -/

-- B4, B7, B8 with the upper window's bank
theorem test_bank_reduction :
    (syncMap { Board.default with prgBanks := 8 } 20 0).prgLo = 4 ∧
    (syncMap { Board.default with prgBanks := 2 } 20 0).prgLo = 0 ∧
    (syncMap { Board.default with prgBanks := 1 } 31 0).prgLo = 0 ∧
    (syncMap { Board.default with prgBanks := 8 } 20 0).prgHi = 7 ∧
    (syncMap { Board.default with prgBanks := 1 } 31 0).prgHi = 0 := by decide
-- Y1, Y3, Y4, Y6
theorem test_sync_mapping :
    syncMap { plainBoard with cfg := 0 } 0 0 = ⟨0, 31, .notDriven, .h⟩ ∧
    syncMap Board.default 5 1 = ⟨5, 31, .chrRamBank0, .s1⟩ ∧
    syncMap { Board.default with cfg := 1 } 5 1 = ⟨5, 31, .chrRamBank0, .v⟩ ∧
    syncMap { plainBoard with cfg := 3, prgBanks := 8 } 31 0 = ⟨7, 7, .notDriven, .s0⟩ := by decide
-- Y7
theorem test_sync_fallback : syncMap { plainBoard with cfg := 0xFF } 31 1 = ⟨31, 31, .notDriven, .s1⟩ := by decide

/-! ### One step of each operation -/

-- P4: 22 and a 1 give 27; P11: the high data bits count for nothing
theorem test_prgwAh_shifts : prgAfter (stepOn (.cpu 0x1E00001) (withRegs 22 0 demo)) = some 27 ∧
    prgAfter (stepOn (.cpu 0x1E000FF) demo) = some 16 := by decide
-- P1: the lower window follows at once, the upper stays
theorem test_prgwAh_syncs : mapAfter (stepOn (.cpu 0x1E00001) demo) = some ⟨16, 31, .chrRamBank0, .s0⟩ := by decide
-- R111's example, on the other discipline
theorem test_prgwAhsr_shifts : prgAfter (stepOn (.cpu 0x1E00001) (withRegs 22 0 (live ahsrBoard))) = some 27 := by decide
-- R139: a table that is not the identity selects the bank
theorem test_prgwAhsr_selects :
    (mapAfter (stepOn (.cpu 0x1E00001)
      (live { ahsrBoard with prgSelectB := Vector.ofFn fun k => BitVec.ofFin (k + 1) }))).map (·.prgLo)
      = some 17 := by decide
-- M2, M4
theorem test_mirw_mapper_controlled :
    (mapAfter (stepOn (.cpu 0x1800001) demo)).map (·.mirror) = some .s1 ∧
    (mapAfter (stepOn (.cpu 0x18000FE) (withRegs 0 1 demo))).map (·.mirror) = some .s0 := by decide
-- M5, M6, M10: bit 1 is stored only when MIRR_BITS = 2; a fixed mode does not move
theorem test_mirw_register :
    (nextOf (stepOn (.cpu 0x1800002) demo)).map (·.mirr) = some 0 ∧
    (nextOf (stepOn (.cpu 0x1800002) (live { Board.default with mirrBits := .two }))).map (·.mirr) = some 2 ∧
    (mapAfter (stepOn (.cpu 0x1800001) (live { Board.default with cfg := 1 }))).map (·.mirror) = some .v := by decide
-- A1 then A2
theorem test_ramw_then_rdram :
    (nextOf (stepOn (.cpu 0x16000AB) demo)).bind (fun t => replyOf (stepOn (.cpu 0x0600000) t))
      = some (.byte 0xAB) := by decide
-- A11: nothing but the byte
theorem test_ramw_leaves_registers : prgAfter (stepOn (.cpu 0x1600001) (withRegs 5 0 demo)) = some 5 := by decide
-- A5: the drawn byte
theorem test_rdram_drawn : replyOf (stepOn (.cpu 0x0600100) demo) = some (.byte 0x99) := by decide
-- K1, K3
theorem test_rdlo : replyOf (stepOn (.cpu 0x0801000) (withRegs 3 0 demo)) = some (.byte 0x31) ∧
    replyOf (stepOn (.cpu 0x0800000) (withRegs 5 0 demo)) = some (.byte 0x22) := by decide
-- K10, K11
theorem test_rdhi : replyOf (stepOn (.cpu 0x0C00000) (live smallBoard)) = some (.byte 0x44) ∧
    replyOf (stepOn (.cpu 0x0FFFF00) (live smallBoard)) = some (.byte 0x66) := by decide
-- A6, A8
theorem test_undecoded_writes : nextOf (stepOn (.cpu 0x1A000FF) (withRegs 5 1 demo)) = some (withRegs 5 1 demo) ∧
    nextOf (stepOn (.cpu 0x15FFF01) (withRegs 5 1 demo)) = some (withRegs 5 1 demo) := by decide
-- K16: the block does not change, one draw is made
theorem test_extr_draws : (nextOf (stepOn (.cpu 0x0400000) demo)).map (fun t => (t.draws, t.prg, t.ram))
    = some (1, 0, demo.ram) := by decide
-- G1 then G2
theorem test_chrwr_then_chrrd :
    (nextOf (stepOn (.ppu 0x40003C) demo)).bind (fun t => replyOf (stepOn (.ppu 0) t)) = some (.byte 0x3C) := by decide
-- G7, G6
theorem test_chrext : nextOf (stepOn (.ppu 0x401099) (live plainBoard)) = some (live plainBoard) ∧
    (nextOf (stepOn (.ppu 0) (live plainBoard))).map (·.draws) = some 1 := by decide
-- R56, R57: a store at 0x4000 of a 15-bit bus is not the block's
theorem test_chrext_above_the_map :
    nextOf (stepOn (.ppu 0xC00099) (live { Board.default with ppuAddrW := 15 }))
      = some (live { Board.default with ppuAddrW := 15 }) ∧
    (nextOf (stepOn (.ppu 0x600000) (live { Board.default with ppuAddrW := 15 }))).map (·.draws) = some 1 := by decide
-- G8 (table 2), G9 (table 1), G11, G12
theorem test_ntsel :
    replyOf (stepOn (.ppu 0x280000) (live { Board.default with cfg := 0 })) = some (.half 1) ∧
    replyOf (stepOn (.ppu 0x240000) (live { Board.default with cfg := 1 })) = some (.half 1) ∧
    replyOf (stepOn (.ppu 0x200000) (withRegs 0 1 demo)) = some (.half 1) ∧
    replyOf (stepOn (.ppu 0x340000) (live { Board.default with cfg := 1 })) = some (.half 1) := by decide
-- F1, F16
theorem test_construct : (nextOf (stepOn (.host 0 []) (fresh smallBoard))).map (fun t => (t.prg, t.mirr, t.phase))
      = some (0, 0, .built) ∧
    refusedBy (stepOn (.host 0 []) demo) = some .alreadyBuilt := by decide
-- B9, M12, F20
theorem test_construct_refuses :
    refusedBy (exec .construct (fresh { Board.default with prgBanks := 12 })) = some .badPrgSize ∧
    refusedBy (exec .construct (fresh { Board.default with cfg := 7, fallback := .refuse })) = some .badConfig ∧
    refusedBy (exec .construct (fresh { Board.default with ramBase := 0x6100 })) = some .badMap := by decide
-- F2
theorem test_power : (nextOf (stepOn (.host 1 []) (built smallBoard))).map (fun t => (t.map, t.phase))
    = some (⟨0, 7, .notDriven, .v⟩, .live) := by decide
-- F3
theorem test_power_again : nextOf (exec .power (withRegs 27 1 demo)) = some (withRegs 27 1 demo) := by decide
-- F4
theorem test_save : replyOf (exec .save (withRegs 27 1 (live plainBoard)))
    = some (.image [⟨plainBoard.idPrg, 1, [(0, 0x1B)]⟩, ⟨plainBoard.idMirr, 1, [(0, 1)]⟩,
        ⟨plainBoard.idRam, 8192, [(1, 0x99), (0x1FFF, 0x42)]⟩]) := by decide

/-- An image of a board without graphics RAM. -/
def imageOf (p m : Byte) (size : Nat) : Image :=
  [⟨plainBoard.idPrg, 1, Memory.single p⟩, ⟨plainBoard.idMirr, 1, Memory.single m⟩, ⟨plainBoard.idRam, size, [(7, 8)]⟩]

-- F5
theorem test_restore : (nextOf (exec (.restore (imageOf 5 1 8192)) (live plainBoard))).map
      (fun t => (t.prg, t.mirr, t.ram, t.map)) = some (5, 1, [(7, 8)], ⟨5, 31, .notDriven, .s1⟩) := by decide
-- F6, F7, F10, F9
theorem test_restore_refuses :
    refusedBy (exec (.restore (imageOf 0x20 0 8192)) (live plainBoard)) = some .badImage ∧
    refusedBy (exec (.restore (imageOf 5 2 8192)) (live plainBoard)) = some .badImage ∧
    refusedBy (exec (.restore (imageOf 5 1 8191)) (live plainBoard)) = some .badImage ∧
    refusedBy (exec (.restore (imageOf 5 1 8192)) demo) = some .badImage := by decide
-- F11, F12; R183: the memories it owned are released
theorem test_close : (nextOf (exec .close demo)).map (fun t => (t.ownRam, t.ownChr, t.phase)) = some (false, false, .closed) ∧
    (nextOf (exec .close demo)).map (fun t => (t.ram, t.chr)) = some ([], []) ∧
    nextOf (exec .close shut) = some shut := by decide
-- F13, F14
theorem test_close_refusals : refusedBy (stepOn (.cpu 0x0800000) shut) = some .closed ∧
    refusedBy (exec .close (fresh smallBoard)) = some .notBuilt := by decide
-- 2.4: running SYNC again gives the same mapping
theorem test_sync : mapAfter (exec .sync { demo with prg := 5, mirr := 1 }) = some ⟨5, 31, .chrRamBank0, .s1⟩ := by decide
-- F17
theorem test_unknown_selector : refusedBy (stepOn (.host 6 []) demo) = some .invalidHostOp := by decide

/-! ### The hypotheses of the statements can be met

One theorem for each statement that has hypotheses, named after it: a state and operands that meet all of them together,
and for a statement of several clauses a case of each clause, at the ends of its range. -/

/-- The default board with graphics RAM, the registers at their greatest values. -/
def full : State := withRegs 31 1 demo
/-- A live board without graphics RAM. -/
def plain : State := live plainBoard
/-- A live state of a board with graphics RAM on a PPU bus of 15 bits. -/
def wide : State := live { Board.default with ppuAddrW := 15 }
/-- Requests listed before a state's own. -/
def listed (rs : List Request) (s : State) : State := { s with pending := rs }

/-- An outcome that has a next state is that next state. -/
theorem completes {o : Host.Outcome State Fault Refusal} (h : (nextOf o).isSome = true) : ∃ t, o = .next t := by
  cases o with
  | next t => exact ⟨t, rfl⟩
  | fault f => cases h
  | refused r => cases h

theorem full_inv : Inv full := by constructor <;> decide
theorem plain_inv : Inv plain := by constructor <;> decide
theorem shut_inv : Inv shut := by constructor <;> decide
theorem fixed_inv : Inv (live { Board.default with cfg := 0 }) := by constructor <;> decide

theorem witness_StepRunsDecodedOperation :
    (listed [.cpu 0x1E00001] full).pending = [.cpu 0x1E00001] ∧
    decode full.board (.cpu 0x1E00001) = .ok (.prgwAh 0 1) := ⟨rfl, rfl⟩
theorem witness_StepWithNothingListedChangesNothing : State.reset.pending = [] := rfl
theorem witness_UnknownHostSelectorIsRefused :
    (listed [.host 5 []] full).pending = [.host 5 []] ∧ 5 ≤ (5 : BitVec 3).toNat ∧
    (listed [.host 7 []] full).pending = [.host 7 []] ∧ 5 ≤ (7 : BitVec 3).toNat := by decide
theorem witness_EncodeThenDecode :
    Board.default.mapOk = true ∧ (Instr.prgwAh 0x1FFF 0xFF).wellFormed Board.default = true ∧
    (Instr.wnop 0xA000 0).wellFormed Board.default = true := by decide
theorem witness_DecodeThenEncode :
    Board.default.mapOk = true ∧ decode Board.default (.cpu 0x08010FF) = .ok (.rdlo 0x10) := ⟨by decide, rfl⟩
theorem witness_DecodeAgreesWithOpcodeTable :
    defaultAddresses plainBoard ∧ decode plainBoard (.ppu 0x401099) = .ok (.chrext 0x10 (.write 0x99)) :=
  ⟨⟨rfl, rfl, rfl, rfl, rfl, rfl, rfl, rfl, rfl⟩, rfl⟩
theorem witness_ControlWritesReadOnlyTheirDataBits :
    full.board.mapOk = true ∧
    full.board.inPrgc 0xE000 = true ∧ full.board.inPrgc 0xFFFF = true ∧ (0x01 : Byte).toNat % 2 = (0xFF : Byte).toNat % 2 ∧
    full.board.inMirr 0x8000 = true ∧ full.board.inMirr 0x9FFF = true ∧
    (0x00 : Byte).toNat % 2 ^ full.board.mirrBits.width = (0xFE : Byte).toNat % 2 ^ full.board.mirrBits.width := by decide
theorem witness_TraceNotationNumbers : Board.default.addrW = 16 ∧ Board.default.ppuAddrW = 14 := ⟨rfl, rfl⟩
theorem witness_ProgramBankWriteShiftsInBitZero : full.phase = .live ∧ plain.phase = .live := by decide
/-- The five writes of `LOADBANK 19` (P31), at both ends of the range. -/
def loadNineteen : List (BitVec 13 × Byte) := [(0, 1), (0x1FFF, 0xFF), (0, 0), (1, 0xFE), (0, 1)]
theorem witness_SerialLoadReachesAnyBank :
    full.phase = .live ∧ loadNineteen.length ≤ 5 ∧
    (∀ (j : Nat) (w : BitVec 13 × Byte), loadNineteen[j]? = some w →
      w.2.toNat % 2 = (19 : BitVec 5).toNat / 2 ^ j % 2) ∧
    loadNineteen.length = 5 ∧ loadNineteen ≠ [] ∧ full.board.shift = .appendHigh ∧ full.board.banksOk = true := by
  refine ⟨by decide, by decide, ?_, by decide, by decide, by decide, by decide⟩
  intro j w h
  match j, h with
  | 0, h => cases h; decide
  | 1, h => cases h; decide
  | 2, h => cases h; decide
  | 3, h => cases h; decide
  | 4, h => cases h; decide
  | _ + 5, h => cases h
theorem witness_ProgramBankAccumulation :
    (∀ i ∈ [Instr.prgwAh 0 1, .mirw 0 1, .ramw 0 0xAB, .power, .save, .prgwAh 7 0], i ≠ .construct ∧ ∀ img, i ≠ .restore img) ∧
    ∃ t, execAll [.prgwAh 0 1, .mirw 0 1, .ramw 0 0xAB, .power, .save, .prgwAh 7 0] full = .next t :=
  ⟨by simp, _, rfl⟩
theorem witness_UpperWindowNeverMoves : Inv full ∧ full.phase = .live ∧ ∃ t, exec (.prgwAh 0 0) full = .next t :=
  ⟨full_inv, rfl, _, rfl⟩
theorem witness_PseudoOperationsLoadTheRegisters :
    (listed (loadBank full.board 5 ++ []) full).phase = .live ∧ full.board.mapOk = true ∧
    (listed (loadBank full.board 5 ++ []) full).pending = loadBank full.board 5 ++ [] ∧
    (listed (setMirr full.board 0xFF ++ []) full).pending = setMirr full.board 0xFF ++ [] :=
  ⟨rfl, by decide, rfl, rfl⟩
theorem witness_MirroringWriteStoresLowBits : Inv full ∧ full.phase = .live := ⟨full_inv, rfl⟩
theorem witness_MirroringWriteDoesNotAccumulate :
    full.board.mirrBits = plain.board.mirrBits ∧ (∃ t, exec (.mirw 0 1) full = .next t) ∧
    ∃ t, exec (.mirw 0x1FFF 1) plain = .next t := ⟨rfl, ⟨_, rfl⟩, _, rfl⟩
theorem witness_FixedConfigurationIgnoresMirroringWrites :
    Inv (live { Board.default with cfg := 0 }) ∧ (live { Board.default with cfg := 0 }).phase = .live ∧
    (live { Board.default with cfg := 0 }).board.cfg = (live { Board.default with cfg := 0 }).board.cfgH ∧
    (live smallBoard).board.cfg = (live smallBoard).board.cfgV := ⟨fixed_inv, rfl, rfl, rfl⟩
theorem witness_MapperControlledModeIsBitZero :
    full.phase = .live ∧ full.board.namesDistinct = true ∧ full.board.cfg = full.board.cfgMA ∧
    ({ Board.default with cfg := 3 } : Board).namesDistinct = true ∧
    ({ Board.default with cfg := 3 } : Board).cfg = ({ Board.default with cfg := 3 } : Board).cfgMB := by decide
theorem witness_SyncComputesTheMapping :
    full.board.banksOk = true ∧ full.board.namesDistinct = true ∧ full.board.shift = .appendHigh ∧
    (live ahsrBoard).board.shift = .appendHighShiftRight ∧ full.board.cfg = full.board.cfgMA ∧
    (live smallBoard).board.cfg = (live smallBoard).board.cfgV ∧
    ({ Board.default with cfg := 0xFF } : Board).cfgRecognised = false := by decide
theorem witness_SyncIsIdempotent : ∃ t, exec .sync full = .next t := ⟨_, rfl⟩
theorem witness_OnlySyncWritesTheMapping :
    (∃ t, exec (.prgwAh 0 0) full = .next t) ∧ (Instr.prgwAh 0 0).runsSync = true ∧
    (∃ t, exec (.ramw 0 0) full = .next t) ∧ (Instr.ramw 0 0).runsSync = false ∧ (∃ t, exec .sync full = .next t) :=
  ⟨⟨_, rfl⟩, rfl, ⟨_, rfl⟩, rfl, _, rfl⟩
theorem witness_ScratchRamReadAnswersTheByte : full.phase = .live := rfl
theorem witness_ScratchRamWriteStoresTheByte : Inv full ∧ full.phase = .live := ⟨full_inv, rfl⟩
theorem witness_ProgramWindowReadsComplete : Inv full ∧ full.phase = .live := ⟨full_inv, rfl⟩
/-- A state no run reaches: one bank, and a mapping that shows bank 1. -/
def pastEnd : State := { live { Board.default with prgBanks := 1 } with map := ⟨1, 1, .chrRamBank0, .s0⟩ }
theorem witness_ReadPastProgramMemoryFaults :
    pastEnd.phase = .live ∧
    pastEnd.board.prgBanks * 16384 ≤ pastEnd.map.prgLo.toNat * 16384 + (0 : BitVec 14).toNat ∧
    pastEnd.board.prgBanks * 16384 ≤ pastEnd.map.prgHi.toNat * 16384 + (0x3FFF : BitVec 14).toNat := by decide
theorem witness_UndecodedWritesDoNothing : full.phase = .live := rfl
theorem witness_UnansweredReadsAreDraws : plain.phase = .live ∧ plain.map.chr = .notDriven := by decide
theorem witness_StoreThenLoad :
    Inv full ∧ (∃ t u, exec (.ramw 0x1FFF 0x5A) full = .next t ∧ execAll [.prgwAh 0 1, .ramw 0 7, .power] t = .next u) ∧
    (∃ t u, exec (.chrwr 0 0x3C) full = .next t ∧ execAll [.prgwAh 0 1, .ramw 0 7, .power] t = .next u) ∧
    full.board.hasChrRam = true ∧
    (∀ i ∈ [Instr.prgwAh 0 1, .ramw 0 7, .power], i ≠ .close ∧ ∀ img, i ≠ .restore img) ∧
    (∀ i ∈ [Instr.prgwAh 0 1, .ramw 0 7, .power], ∀ w, i ≠ .ramw 0x1FFF w) ∧
    (∀ i ∈ [Instr.prgwAh 0 1, .ramw 0 7, .power], ∀ w, i ≠ .chrwr 0 w) :=
  ⟨full_inv, ⟨_, _, rfl, rfl⟩, ⟨_, _, rfl, rfl⟩, rfl, by simp, by simp, by simp⟩
theorem witness_ReadsAndUndecodedWritesChangeNothing :
    (Instr.extr 0).isReadOrUndecoded = true ∧ ∃ t, exec (.extr 0) full = .next t := ⟨rfl, _, rfl⟩
theorem witness_GraphicsRamReadsAndWrites : Inv full ∧ full.phase = .live ∧ full.board.hasChrRam = true :=
  ⟨full_inv, rfl, rfl⟩
theorem witness_VideoRamHalfSelect :
    (live { Board.default with cfg := 0 }).map.mirror = .h ∧ (live { Board.default with cfg := 1 }).map.mirror = .v ∧
    demo.map.mirror = .s0 ∧ full.map.mirror = .s1 ∧ full.phase = .live := by decide
theorem witness_VideoRamTables :
    (3 : Nat) < 4 ∧ (1023 : Nat) < 1024 ∧ (0x1FFF : BitVec 13).toNat % 4096 = 3 * 1024 + 1023 ∧
    (0x1400 : BitVec 13).toNat % 4096 = 1 * 1024 + 0 := by decide
theorem witness_ConstructBuildsTheBoard :
    (fresh Board.default).phase = .none ∧ (fresh Board.default).board.accepted = true ∧
    (fresh Board.default).board.hasChrRam = true ∧ (fresh smallBoard).board.accepted = true ∧
    (fresh smallBoard).board.hasChrRam = false := by decide
theorem witness_ConstructZeroesTheRegisters : ∃ t, exec .construct (fresh smallBoard) = .next t := ⟨_, rfl⟩
theorem witness_ConstructRefusesInOrder :
    (fresh { Board.default with prgBanks := 64 }).phase = .none ∧ (64 : Nat) ∉ [1, 2, 4, 8, 16, 32] ∧
    Board.default.prgBanks ∈ [1, 2, 4, 8, 16, 32] ∧
    ({ Board.default with cfg := 7, fallback := .refuse } : Board).cfgRecognised = false ∧
    Board.default.cfgRecognised = true ∧ ({ Board.default with ramBase := 0x6100 } : Board).mapOk = false ∧
    ({ Board.default with ramBase := 0x6100 } : Board).cfgRecognised = true := by decide
theorem witness_PowerEstablishesTheMapping : (built smallBoard).phase = .built ∧ full.phase = .live := by decide
theorem witness_PowerOnLiveBoardChangesNothing : Inv full ∧ full.phase = .live := ⟨full_inv, rfl⟩
theorem witness_BootReachesFreshLive : (launchOf ahsrBoard).board.accepted = true := by decide
theorem witness_SaveTakesTheImage : full.phase = .live ∧ plain.phase = .live := by decide
theorem witness_SavedImagesAreWellFormed :
    Inv full ∧ ∃ t, exec .save full = .next t ∧ t.reply = .image (saveImage full) := ⟨full_inv, _, rfl, rfl⟩
theorem witness_RestoreLoadsTheImage :
    full.phase = .live ∧ imageOk full.board (saveImage full) = true ∧ full.board.hasChrRam = true ∧
    plain.phase = .live ∧ imageOk plain.board (imageOf 31 1 8192) = true ∧ plain.board.hasChrRam = false := by decide
theorem witness_RestoreRefusesOtherImages :
    plain.phase = .live ∧
    (imageOf 0 0 8191).map (fun r => (⟨r.id, r.size⟩ : RegionDecl)) ≠ plain.board.regions ∧
    32 ≤ ((regionBytes (imageOf 32 0 8192) 0).read 0).toNat ∧
    2 ^ plain.board.mirrBits.width ≤ ((regionBytes (imageOf 0 2 8192) 1).read 0).toNat := by decide
theorem witness_SnapshotRoundTrip :
    Inv full ∧ full.phase = .live ∧ Inv { full with prg := full.prg, draws := 5 } ∧
    ({ full with draws := 5 } : State).phase = .live ∧ ({ full with draws := 5 } : State).board = full.board :=
  ⟨full_inv, rfl, by constructor <;> decide, rfl, rfl⟩
theorem witness_CloseReleasesOnce : full.phase ≠ .none ∧ full.ownRam = true ∧ full.ownChr = true ∧ shut.ownRam = false ∧
    shut.ownChr = false ∧ shut.phase ≠ .none ∧ Inv shut ∧ shut.phase = .closed :=
  ⟨by decide, rfl, rfl, rfl, rfl, by decide, shut_inv, rfl⟩
theorem witness_OwnershipChangesOnlyAtConstructAndClose :
    (∃ t, exec .close full = .next t ∧ full.ownRam = true ∧ t.ownRam = false ∧ full.ownChr = true ∧ t.ownChr = false) ∧
    (∃ t, exec .construct (fresh Board.default) = .next t ∧ (fresh Board.default).ownRam = false ∧ t.ownRam = true ∧
      (fresh Board.default).ownChr = false ∧ t.ownChr = true) ∧
    (∃ t, exec .close shut = .next t ∧ shut.phase = .closed) :=
  ⟨⟨_, rfl, rfl, rfl, rfl, rfl⟩, ⟨_, rfl, rfl, rfl, rfl, rfl⟩, _, rfl, rfl⟩
theorem witness_AdmissionTable :
    (fresh Board.default).phase = .none ∧ (built Board.default).phase = .built ∧ full.phase = .live ∧
    shut.phase = .closed ∧ (Instr.rdram 0).isBus = true ∧ (Instr.ntsel 0 .read).isBus = true ∧
    Instr.power ≠ .close ∧ Instr.power ≠ .sync := by decide
theorem witness_StartMeetsInvariant :
    (launchOf Board.default).rom.wf Board.default.romSize = true ∧ (launchOf Board.default).ramInit.wf 8192 = true ∧
    (launchOf Board.default).chrInit.wf 8192 = true := by decide
theorem witness_WidthsAreKept :
    full.mirr.toNat < 2 ^ full.board.mirrBits.width ∧ ∃ t, step (listed [.cpu 0x18000FF] full) = .next t :=
  ⟨by decide, completes (by decide)⟩
theorem witness_StepKeepsInvariant :
    Inv (listed [.cpu 0x1E00000] full) ∧ ∃ t, step (listed [.cpu 0x1E00000] full) = .next t :=
  ⟨by constructor <;> decide, completes (by decide)⟩
theorem witness_NoStepFaults : Inv (listed [.cpu 0x0BFFF00] full) := by constructor <;> decide
theorem witness_LiveBoardAcceptsEveryTransaction :
    Inv (listed [.cpu 0x1FFFFFF] full) ∧ (listed [.cpu 0x1FFFFFF] full).phase = .live ∧
    (listed [.cpu 0x1FFFFFF] full).pending = [.cpu 0x1FFFFFF] ∧ (Request.cpu 0x1FFFFFF).agent ≠ .host ∧
    (Request.ppu 0).agent ≠ .host := ⟨by constructor <;> decide, rfl, rfl, by decide, by decide⟩
theorem witness_CpuWriteEffects :
    Inv (listed [.cpu (cpuWord full.board true 0xE000 1)] full) ∧ (listed [.cpu (cpuWord full.board true 0xE000 1)] full).phase = .live ∧
    (listed [.cpu (cpuWord full.board true 0xE000 1)] full).pending = [.cpu (cpuWord full.board true 0xE000 1)] ∧
    full.board.inPrgc 0xE000 = true ∧ full.board.inPrgc 0xDFFF = false ∧ full.board.inMirr 0x9FFF = true ∧
    full.board.inMirr 0xA000 = false ∧ full.board.inRam 0x7FFF = true ∧ full.board.inRam 0x5FFF = false ∧
    0xFFFF < 2 ^ full.board.addrW :=
  ⟨by constructor <;> decide, by decide, by decide, by decide, by decide, by decide, by decide, by decide, by decide, by decide⟩
theorem witness_CpuReadFollowsLookup :
    Inv (listed [.cpu (cpuWord full.board false 0xBFFF 0)] full) ∧ (listed [.cpu (cpuWord full.board false 0xBFFF 0)] full).phase = .live ∧
    (listed [.cpu (cpuWord full.board false 0xBFFF 0)] full).pending = [.cpu (cpuWord full.board false 0xBFFF 0)] ∧
    cpuLookup full.board full.map 0x7FFF = .ram 0x1FFF ∧ cpuLookup full.board full.map 0xBFFF = .rom 0x7FFFF ∧
    cpuLookup full.board full.map 0xC000 = .rom 0x7C000 ∧ cpuLookup full.board full.map 0x5FFF = .notMine ∧
    0xBFFF < 2 ^ full.board.addrW :=
  ⟨by constructor <;> decide, by decide, by decide, by decide, by decide, by decide, by decide, by decide⟩
theorem witness_PpuAccessEffects :
    Inv (listed [.ppu (ppuWord full.board true 0x1FFF 0x77)] full) ∧ (listed [.ppu (ppuWord full.board true 0x1FFF 0x77)] full).phase = .live ∧
    (listed [.ppu (ppuWord full.board true 0x1FFF 0x77)] full).pending = [.ppu (ppuWord full.board true 0x1FFF 0x77)] ∧
    0x1FFF < 2 ^ full.board.ppuAddrW ∧ 0x3FFF < 2 ^ full.board.ppuAddrW ∧ full.board.hasChrRam = true ∧
    plain.board.hasChrRam = false ∧ Inv (listed [.ppu (ppuWord plain.board false 0 0)] plain) ∧
    Inv (listed [.ppu (ppuWord wide.board false 0x4000 0)] wide) ∧ wide.phase = .live ∧ 0x4000 < 2 ^ wide.board.ppuAddrW :=
  ⟨by constructor <;> decide, by decide, by decide, by decide, by decide, by decide, by decide,
    by constructor <;> decide, by constructor <;> decide, by decide, by decide⟩
theorem witness_WriteMatrix :
    (∃ t, exec (.prgwAh 0 0) full = .next t ∧ t.prg ≠ full.prg) ∧ (∃ t, exec (.mirw 0 0) full = .next t ∧ t.mirr ≠ full.mirr) ∧
    (∃ t, exec (.ramw 0 1) full = .next t ∧ t.ram ≠ full.ram) ∧ (∃ t, exec (.chrwr 0 1) full = .next t ∧ t.chr ≠ full.chr) ∧
    (∃ t, exec (.prgwAh 0 0) full = .next t ∧ t.map ≠ full.map) ∧
    (∃ t, exec .close full = .next t ∧ t.ownRam ≠ full.ownRam ∧ t.phase ≠ full.phase) :=
  ⟨⟨_, rfl, by decide⟩, ⟨_, rfl, by decide⟩, ⟨_, rfl, by decide⟩, ⟨_, rfl, by decide⟩, ⟨_, rfl, by decide⟩,
    ⟨_, rfl, by decide, by decide⟩⟩
theorem witness_LaunchNeverChanges : ∃ t, step (listed [.cpu 0x1E00000] full) = .next t :=
  completes (by decide)
theorem witness_AnswersDependOnlyOnMapAndMemories :
    (Request.cpu 0x0800000).agent ≠ .host ∧ { full with prg := 3, mirr := 0 }.board = full.board ∧
    (∃ t, step (listed [.cpu 0x0800000] full) = .next t) ∧
    ∃ t, step (listed [.cpu 0x0800000] { full with prg := 3, mirr := 0 }) = .next t :=
  ⟨by decide, rfl, completes (by decide), completes (by decide)⟩
theorem witness_BusReachesNoHostState :
    (listed [.cpu 0x16000AB] full).pending = [.cpu 0x16000AB] ∧ (Request.cpu 0x16000AB).agent ≠ .host ∧
    ∃ t, step (listed [.cpu 0x16000AB] full) = .next t :=
  ⟨rfl, by decide, completes (by decide)⟩

end Sys2Proof.Tests
end

/-! PROOFS. The family of spec/10_state.md: what one operation can do to `MIRR`, and that the registers keep their
widths (R34, R40). -/

namespace Sys2Proof.Machine

/-! ### Frames of an operation -/

/-- A write of the graphics window changes at most `CHR` and the reply, whether or not the window is driven. -/
theorem chrWindowWrite_frame (s : State) (off : BitVec 13) (v : Byte) :
    s.chrWindowWrite off v = { s with chr := (s.chrWindowWrite off v).chr, reply := .none } := by
  unfold State.chrWindowWrite
  split <;> rfl

/-- R170: a read or an undecoded write that completes leaves the block as it was. -/
theorem exec_sameBlock {i : Instr} {s t : State} (hi : i.isReadOrUndecoded = true) (h : exec i s = .next t) :
    sameBlock s t := by
  cases i with
  | wnop _ _ => obtain ⟨-, rfl⟩ := exec_wnop_next.mp h; rfl
  | extw _ _ => obtain ⟨-, rfl⟩ := exec_extw_next.mp h; rfl
  | rdram _ => obtain ⟨-, rfl⟩ := exec_rdram_next.mp h; rfl
  | rdlo _ => obtain ⟨-, -, rfl⟩ := exec_rdlo_next.mp h; rfl
  | rdhi _ => obtain ⟨-, -, rfl⟩ := exec_rdhi_next.mp h; rfl
  | extr _ => obtain ⟨-, rfl⟩ := exec_extr_next.mp h; rfl
  | chrrd off => obtain ⟨-, rfl⟩ := exec_chrrd_next.mp h; exact chrWindowRead_sameBlock s off
  | chrext _ acc => obtain ⟨-, rfl⟩ := exec_chrext_next.mp h; cases acc <;> rfl
  | ntsel _ _ => obtain ⟨-, rfl⟩ := exec_ntsel_next.mp h; rfl
  | prgwAh _ _ | prgwAhsr _ _ | mirw _ _ | ramw _ _ | chrwr _ _ | construct | power | save | restore _ | close
  | sync => cases hi

theorem sameBlock.launch {s t : State} (h : sameBlock s t) : t.launch = s.launch := (congrArg State.launch h).trans rfl

theorem sameBlock.mirr {s t : State} (h : sameBlock s t) : t.mirr = s.mirr := (congrArg State.mirr h).trans rfl

/-- R8, R31: no operation changes what the launch fixes. -/
theorem exec_launch {i : Instr} {s t : State} (h : exec i s = .next t) : t.launch = s.launch := by
  cases i with
  | wnop _ _ | extw _ _ | rdram _ | rdlo _ | rdhi _ | extr _ | chrrd _ | chrext _ _ | ntsel _ _ =>
    exact (exec_sameBlock rfl h).launch
  | prgwAh _ _ => obtain ⟨-, rfl⟩ := exec_prgwAh_next.mp h; rfl
  | prgwAhsr _ _ => obtain ⟨-, rfl⟩ := exec_prgwAhsr_next.mp h; rfl
  | mirw _ _ => obtain ⟨-, rfl⟩ := exec_mirw_next.mp h; rfl
  | ramw _ _ => obtain ⟨-, rfl⟩ := exec_ramw_next.mp h; rfl
  | chrwr _ _ =>
    obtain ⟨-, rfl⟩ := exec_chrwr_next.mp h
    rw [chrWindowWrite_frame]
  | construct => obtain ⟨-, -, rfl⟩ := exec_construct_next.mp h; rfl
  | power => obtain ⟨-, rfl⟩ := exec_power_next.mp h; rfl
  | save => obtain ⟨-, rfl⟩ := exec_save_next.mp h; rfl
  | restore _ => obtain ⟨-, -, rfl⟩ := exec_restore_next.mp h; rfl
  | close => obtain ⟨-, rfl⟩ := exec_close_next.mp h; rfl
  | sync => obtain rfl := exec_sync_next.mp h; rfl

/-! ### The mirroring register -/

/-- R37, R40, R125, R181: what an operation can do to `MIRR`. CONSTRUCT zeroes it, MIRW and RESTORE store the low
`MIRR_BITS` bits of a byte, every other operation leaves it. -/
theorem exec_mirr {i : Instr} {s t : State} (h : exec i s = .next t) :
    t.mirr = s.mirr ∨ (i = .construct ∧ t.mirr = 0) ∨
    (∃ off d, i = .mirw off d ∧ t.mirr = mirrField s.board.mirrBits d) ∨
    ∃ img, i = .restore img ∧ t.mirr = mirrField s.board.mirrBits ((regionBytes img 1).read 0) := by
  cases i with
  | construct => obtain ⟨-, -, rfl⟩ := exec_construct_next.mp h; exact .inr (.inl ⟨rfl, rfl⟩)
  | mirw off d => obtain ⟨-, rfl⟩ := exec_mirw_next.mp h; exact .inr (.inr (.inl ⟨off, d, rfl, rfl⟩))
  | restore img => obtain ⟨-, -, rfl⟩ := exec_restore_next.mp h; exact .inr (.inr (.inr ⟨img, rfl, rfl⟩))
  | wnop _ _ | extw _ _ | rdram _ | rdlo _ | rdhi _ | extr _ | chrrd _ | chrext _ _ | ntsel _ _ =>
    exact .inl (exec_sameBlock rfl h).mirr
  | prgwAh _ _ => obtain ⟨-, rfl⟩ := exec_prgwAh_next.mp h; exact .inl rfl
  | prgwAhsr _ _ => obtain ⟨-, rfl⟩ := exec_prgwAhsr_next.mp h; exact .inl rfl
  | ramw _ _ => obtain ⟨-, rfl⟩ := exec_ramw_next.mp h; exact .inl rfl
  | chrwr _ _ =>
    obtain ⟨-, rfl⟩ := exec_chrwr_next.mp h
    exact .inl (by rw [chrWindowWrite_frame])
  | power => obtain ⟨-, rfl⟩ := exec_power_next.mp h; exact .inl rfl
  | save => obtain ⟨-, rfl⟩ := exec_save_next.mp h; exact .inl rfl
  | close => obtain ⟨-, rfl⟩ := exec_close_next.mp h; exact .inl rfl
  | sync => obtain rfl := exec_sync_next.mp h; exact .inl rfl

/-- Every operation keeps `MIRR` within its width. -/
theorem exec_mirr_lt {i : Instr} {s t : State} (hs : s.mirr.toNat < 2 ^ s.board.mirrBits.width)
    (h : exec i s = .next t) : t.mirr.toNat < 2 ^ t.board.mirrBits.width := by
  rw [State.board, exec_launch h]
  obtain hm | ⟨-, hm⟩ | ⟨_, _, -, hm⟩ | ⟨_, -, hm⟩ := exec_mirr h <;> rw [hm]
  · exact hs
  · exact Nat.two_pow_pos _
  · exact mirrField_lt _ _
  · exact mirrField_lt _ _

/-- Every step keeps `MIRR` within its width. -/
theorem step_mirr_lt {s t : State} (hs : s.mirr.toNat < 2 ^ s.board.mirrBits.width) (h : step s = .next t) :
    t.mirr.toNat < 2 ^ t.board.mirrBits.width := by
  obtain ⟨-, rfl⟩ | ⟨_, rest, _, -, -, hi⟩ := step_cases h
  · exact hs
  · exact exec_mirr_lt (s := { s with pending := rest }) hs hi

/-! ### The statements -/

/-- Settles O50: `MIRR` by the step lemma `step_mirr_lt`, `PRG` by its type. -/
theorem widthsAreKept : Obligations.WidthsAreKept :=
  ⟨fun l m steps => ⟨(State.start l m steps).prg.isLt, Nat.two_pow_pos _⟩,
    fun _ t hs h => ⟨t.prg.isLt, step_mirr_lt hs h⟩⟩

/-- Settles O34: a CONSTRUCT that completes ends in `State.build`. -/
theorem constructZeroesTheRegisters : Obligations.ConstructZeroesTheRegisters := by
  intro s t h
  obtain ⟨-, -, rfl⟩ := exec_construct_next.mp h
  exact ⟨State.build_prg s, State.build_mirr s⟩

end Sys2Proof.Machine

/-! PROOFS. The family of spec/40_program_bank_write.md: the program-bank write (R110, R111, R114, R117), which operations
write the mapping table (R144, R145), and the upper program window (R115, R137). -/

namespace Sys2Proof.Machine

/-! ### The program-bank write -/

/-- R110, R111: on a live board both shift disciplines complete with the common body. -/
theorem exec_prgw_live {i : Instr} {off : BitVec 13} {d : Byte} {s : State}
    (hi : i = .prgwAh off d ∨ i = .prgwAhsr off d) (hs : s.phase = .live) : exec i s = .next (s.programBankWrite d) := by
  obtain rfl | rfl := hi
  · exact exec_prgwAh_next.mpr ⟨hs, rfl⟩
  · exact exec_prgwAhsr_next.mpr ⟨hs, rfl⟩

/-- The common body writes `PRG`, the mapping and the reply, and nothing else. -/
theorem programBankWrite_frame (s : State) (d : Byte) :
    s.programBankWrite d =
      { s with prg := (s.programBankWrite d).prg, map := (s.programBankWrite d).map, reply := .none } := rfl

/-! ### What writes the mapping table -/

theorem sameBlock.map {s t : State} (h : sameBlock s t) : t.map = s.map := (congrArg State.map h).trans rfl

/-- R144: an operation that ends with SYNC leaves `MAP` as SYNC computes it from the registers it leaves. -/
theorem exec_map_of_runsSync {i : Instr} {s t : State} (hi : i.runsSync = true) (h : exec i s = .next t) :
    t.map = syncMap t.board t.prg t.mirr := by
  cases i with
  | prgwAh _ _ => obtain ⟨-, rfl⟩ := exec_prgwAh_next.mp h; rfl
  | prgwAhsr _ _ => obtain ⟨-, rfl⟩ := exec_prgwAhsr_next.mp h; rfl
  | mirw _ _ => obtain ⟨-, rfl⟩ := exec_mirw_next.mp h; rfl
  | power => obtain ⟨-, rfl⟩ := exec_power_next.mp h; rfl
  | restore _ => obtain ⟨-, -, rfl⟩ := exec_restore_next.mp h; rfl
  | sync => obtain rfl := exec_sync_next.mp h; rfl
  | ramw _ _ | wnop _ _ | extw _ _ | rdram _ | rdlo _ | rdhi _ | extr _ | chrrd _ | chrwr _ _ | chrext _ _ | ntsel _ _
  | construct | save | close => cases hi

/-- R145: an operation that does not run SYNC leaves `MAP` alone. -/
theorem exec_map_of_not_runsSync {i : Instr} {s t : State} (hi : i.runsSync = false) (h : exec i s = .next t) :
    t.map = s.map := by
  cases i with
  | wnop _ _ | extw _ _ | rdram _ | rdlo _ | rdhi _ | extr _ | chrrd _ | chrext _ _ | ntsel _ _ =>
    exact (exec_sameBlock rfl h).map
  | ramw _ _ => obtain ⟨-, rfl⟩ := exec_ramw_next.mp h; rfl
  | chrwr _ _ =>
    obtain ⟨-, rfl⟩ := exec_chrwr_next.mp h
    rw [chrWindowWrite_frame]
  | construct => obtain ⟨-, -, rfl⟩ := exec_construct_next.mp h; rfl
  | save => obtain ⟨-, rfl⟩ := exec_save_next.mp h; rfl
  | close => obtain ⟨-, rfl⟩ := exec_close_next.mp h; rfl
  | prgwAh _ _ | prgwAhsr _ _ | mirw _ _ | power | restore _ | sync => cases hi

/-! ### The upper program window -/

/-- R137: the upper bank SYNC computes depends on the board alone, so an operation either leaves `MAP.prg_hi` or sets
it to that bank. -/
theorem exec_prgHi {i : Instr} {s t : State} (h : exec i s = .next t) :
    t.map.prgHi = s.map.prgHi ∨ t.map.prgHi = s.board.reduceBank 0b11111 := by
  cases hi : i.runsSync with
  | false => exact .inl (congrArg Mapping.prgHi (exec_map_of_not_runsSync hi h))
  | true =>
    have hb : t.board = s.board := congrArg Launch.board (exec_launch h)
    have hm := exec_map_of_runsSync hi h
    rw [hb] at hm
    exact .inr (congrArg Mapping.prgHi hm)

/-- R33: on a live board that meets the invariant the upper window shows the bank SYNC computes. -/
theorem Inv.prgHi_eq {s : State} (hs : Inv s) (hl : s.phase = .live) : s.map.prgHi = s.board.reduceBank 0b11111 :=
  congrArg Mapping.prgHi (hs.mapFresh hl)

/-- R176: a live board that meets the invariant has a number of banks CONSTRUCT accepts. -/
theorem Inv.banksOk {s : State} (hs : Inv s) (hl : s.phase = .live) : s.board.banksOk = true :=
  (accepted_parts (hs.accepted (by rw [hl]; rfl))).1

/-! ### The statements -/

/-- Settles O10: both forms end in `State.programBankWrite`, whose arithmetic is `shiftIn_toNat`. -/
theorem programBankWriteShiftsInBitZero : Obligations.ProgramBankWriteShiftsInBitZero := by
  intro s off d i hi hs
  exact ⟨s.programBankWrite d, exec_prgw_live hi hs, shiftIn_toNat d s.prg, rfl, programBankWrite_frame s d,
    fun _ => rfl, fun _ => rfl⟩

/-- Settles O13: the window shows the last bank before (`Inv.prgHi_eq`), and an operation that moves it can only move
it there (`exec_prgHi`). -/
theorem upperWindowNeverMoves : Obligations.UpperWindowNeverMoves := by
  intro i s t hs hl h
  have hkept : t.map.prgHi = s.map.prgHi := (exec_prgHi h).elim id (·.trans (hs.prgHi_eq hl).symm)
  have hlast : s.map.prgHi.toNat = s.board.prgBanks - 1 := by
    rw [hs.prgHi_eq hl, reduceBank_last (hs.banksOk hl)]
  exact ⟨hkept, by rw [hkept, hlast]⟩

end Sys2Proof.Machine

/-! PROOFS. The family of spec/41_mirroring_write.md: what a mirroring write leaves in `MIRR` (R125, R126), the byte
SAVE persists, and the mirroring mode under a fixed `CFG` (R127, R142). -/

namespace Sys2Proof

/-- R142: under a fixed `CFG` the mirroring mode is `CFG`'s, whatever `MIRR` holds. -/
theorem mirrorMode_of_fixed {b : Board} (h : b.cfg = b.cfgH ∨ b.cfg = b.cfgV) (mirr : BitVec 2) :
    b.mirrorMode mirr = if b.cfg = b.cfgH then .h else .v := by
  unfold Board.mirrorMode
  by_cases hH : b.cfg = b.cfgH
  · rw [if_pos hH, if_pos hH]
  · rw [if_neg hH, if_neg hH, if_pos (h.resolve_left hH)]

end Sys2Proof

namespace Sys2Proof.Machine

/-! ### The mirroring write -/

/-- R125: on a live board MIRW completes, and the board stays live. -/
theorem exec_mirw_live {s : State} (off : BitVec 13) (d : Byte) (hs : s.phase = .live) :
    ∃ t, exec (.mirw off d) s = .next t ∧ t.phase = .live :=
  ⟨_, exec_mirw_next.mpr ⟨hs, rfl⟩, hs⟩

/-- R125, R126: MIRW leaves in `MIRR` the low `MIRR_BITS` bits of its data; no prior register and no address enters. -/
theorem exec_mirw_mirr {off : BitVec 13} {d : Byte} {s t : State} (h : exec (.mirw off d) s = .next t) :
    t.mirr = mirrField s.board.mirrBits d := by
  obtain ⟨-, rfl⟩ := exec_mirw_next.mp h
  rfl

/-- R125, R142: MIRW leaves the mirroring mode of the register it wrote. -/
theorem exec_mirw_mirror {off : BitVec 13} {d : Byte} {s t : State} (h : exec (.mirw off d) s = .next t) :
    t.map.mirror = s.board.mirrorMode t.mirr := by
  obtain ⟨-, rfl⟩ := exec_mirw_next.mp h
  rfl

/-- R33: on a live board that meets the invariant the mirroring mode is the one SYNC computes. -/
theorem Inv.mirror_eq {s : State} (hs : Inv s) (hl : s.phase = .live) : s.map.mirror = s.board.mirrorMode s.mirr :=
  congrArg Mapping.mirror (hs.mapFresh hl)

/-! ### What SAVE persists of `MIRR` -/

/-- R180: the second region of the image SAVE takes holds `MIRR`, zero-extended to its byte. -/
theorem saveImage_mirr_toNat (s : State) : ((regionBytes (saveImage s) 1).read 0).toNat = s.mirr.toNat := by
  have hread : (regionBytes (saveImage s) 1).read 0 = s.mirr.zeroExtend 8 := Memory.read_single _
  rw [hread]
  exact BitVec.toNat_setWidth_of_le (by decide)

/-! ### The statements -/

/-- Settles O16: both registers are the same field of the same byte (`exec_mirw_mirr`). -/
theorem mirroringWriteDoesNotAccumulate : Obligations.MirroringWriteDoesNotAccumulate := by
  intro s s' t t' off off' d hw h h'
  rw [exec_mirw_mirr h, exec_mirw_mirr h', hw]

/-- Settles O17: the register by `exec_mirw_mirr`, which does not read `CFG`; SAVE's byte by `saveImage_mirr_toNat`;
the mode before and after by `mirrorMode_of_fixed`, which does not read `MIRR`. -/
theorem fixedConfigurationIgnoresMirroringWrites : Obligations.FixedConfigurationIgnoresMirroringWrites := by
  intro s off d hs hl
  obtain ⟨t, ht, htl⟩ := exec_mirw_live off d hl
  have hmirr : t.mirr.toNat = d.toNat % 2 ^ s.board.mirrBits.width := by
    rw [exec_mirw_mirr ht, mirrField_toNat]
  refine ⟨t, ht, hmirr, ⟨_, saveImage t, exec_save_next.mpr ⟨htl, rfl⟩, rfl, ?_⟩, fun hfixed => ?_⟩
  · rw [saveImage_mirr_toNat, hmirr]
  · rw [exec_mirw_mirror ht, hs.mirror_eq hl, mirrorMode_of_fixed hfixed, mirrorMode_of_fixed hfixed]
    exact ⟨rfl, ite_eq_or_eq _ _ _⟩

end Sys2Proof.Machine

/-! PROOFS. The family of spec/42_mapping_sync_and_lookup.md: SYNC as the sole writer of the mapping table, and its
frame (R144, R145). -/

namespace Sys2Proof.Machine

/-! ### The frame of SYNC -/

/-- R145: the internal operation SYNC writes `MAP` and nothing else. -/
theorem exec_sync_frame {s t : State} (h : exec .sync s = .next t) : t = { s with map := t.map } := by
  obtain rfl := exec_sync_next.mp h
  rfl

/-! ### The statements -/

/-- Settles O21: the operations that run SYNC by `exec_map_of_runsSync`, the others by `exec_map_of_not_runsSync`, and
SYNC itself by `exec_sync_frame`. -/
theorem onlySyncWritesTheMapping : Obligations.OnlySyncWritesTheMapping := by
  intro i s t h
  refine ⟨fun hi => exec_map_of_runsSync hi h, fun hi => exec_map_of_not_runsSync hi h, ?_⟩
  rintro rfl
  exact exec_sync_frame h

end Sys2Proof.Machine

/-! PROOFS. What one operation can do, said once (`Effect`), and what follows for the invariant: every step keeps it
(R33 to R35), no step from it faults (R146, R200), and a live board accepts every bus transaction (R83, R175). -/

namespace Sys2Proof

/-- A read, an undecoded write or SAVE: the operations that leave the block as it was (R170, R180). -/
def Instr.isQuiet (i : Instr) : Bool := i.isReadOrUndecoded || decide (i = .save)

/-- A memory chosen by a condition is in canonical form when each of the two is, where it is chosen. -/
theorem Memory.wf_ite {size : Nat} {c : Prop} [Decidable c] {m m' : Memory} (hm : c → m.wf size = true)
    (hm' : ¬c → m'.wf size = true) : Memory.wf size (if c then m else m') = true := by
  split
  · exact hm ‹c›
  · exact hm' ‹¬c›

/-- The contents of a region of a well-formed image are bytes of the region's size (R182). -/
theorem regionBytes_wf {img : Image} {b : Board} {k n : Nat} {id : Ident} (hok : Machine.imageOk b img = true)
    (hk : b.regions[k]? = some ⟨id, n⟩) : (Machine.regionBytes img k).wf n = true := by
  simp only [Machine.imageOk, Bool.and_eq_true, decide_eq_true_eq, List.all_eq_true] at hok
  obtain ⟨⟨⟨hdecls, hwf⟩, -⟩, -⟩ := hok
  rw [← hdecls, List.getElem?_map, Option.map_eq_some_iff] at hk
  obtain ⟨r, hr, hsize⟩ := hk
  have hn : r.size = n := congrArg RegionDecl.size hsize
  rw [Machine.regionBytes, hr, ← hn]
  exact hwf r (List.mem_of_getElem? hr)

/-- In a well-formed image region 2 holds the bytes of scratch RAM (R177). -/
theorem regionBytes_ram_wf {img : Image} {b : Board} (hok : Machine.imageOk b img = true) :
    (Machine.regionBytes img 2).wf ramSize = true := regionBytes_wf (id := b.idRam) hok rfl

/-- In a well-formed image of a board with graphics RAM region 3 holds its bytes (R177). -/
theorem regionBytes_chr_wf {img : Image} {b : Board} (hok : Machine.imageOk b img = true) (hc : b.hasChrRam = true) :
    (Machine.regionBytes img 3).wf ramSize = true :=
  regionBytes_wf (id := b.idChr) hok (by rw [Board.regions, hc]; rfl)

end Sys2Proof

namespace Sys2Proof.Machine

/-! ### What an operation can do -/

/-- Which state an operation that completes answers: the nine reads and undecoded writes and SAVE together (`quiet`), the
two shift disciplines together (`prgw`), CHRWR where the graphics window is driven and where it is not. -/
inductive Effect : Instr → State → State → Prop where
  | quiet {i : Instr} {s t : State} (hi : i.isQuiet = true) (hb : sameBlock s t) : Effect i s t
  | prgw {i : Instr} {s : State} {d : Byte} (hd : i.prgwData = some d) (hl : s.phase = .live) :
      Effect i s (s.programBankWrite d)
  | mirw {s : State} (off : BitVec 13) (d : Byte) (hl : s.phase = .live) :
      Effect (.mirw off d) s (((s.putMirr (mirrField s.board.mirrBits d)).sync).answer .none)
  | ramw {s : State} (off : BitVec 13) (v : Byte) (hl : s.phase = .live) :
      Effect (.ramw off v) s ((s.putRam off.toNat v).answer .none)
  | chrwr {s : State} (off : BitVec 13) (v : Byte) (hl : s.phase = .live) (hc : s.map.chr = .chrRamBank0) :
      Effect (.chrwr off v) s ((s.putChr off.toNat v).answer .none)
  | undriven {s : State} (off : BitVec 13) (v : Byte) (hl : s.phase = .live) (hc : s.map.chr = .notDriven) :
      Effect (.chrwr off v) s (s.answer .none)
  | construct {s : State} (hn : s.phase = .none) (ha : s.board.accepted = true) :
      Effect .construct s (s.build.answer .none)
  | power {s : State} (hp : s.phase = .built ∨ s.phase = .live) : Effect .power s (s.sync.goLive.answer .none)
  | restore {s : State} (img : Image) (hl : s.phase = .live) (hok : imageOk s.board img = true) :
      Effect (.restore img) s ((s.load img).sync.answer .none)
  | close {s : State} (hn : s.phase ≠ .none) : Effect .close s (s.release.answer .none)
  | sync (s : State) : Effect .sync s s.sync

/-- Where the graphics window shows `CHR`, a write of it is a store. -/
theorem chrWindowWrite_driven {s : State} (hc : s.map.chr = .chrRamBank0) (off : BitVec 13) (v : Byte) :
    s.chrWindowWrite off v = (s.putChr off.toNat v).answer .none := by
  simp [State.chrWindowWrite, chrLookup, hc]

/-- Where the graphics window is not driven, a write of it has no effect (R148). -/
theorem chrWindowWrite_notDriven {s : State} (hc : s.map.chr = .notDriven) (off : BitVec 13) (v : Byte) :
    s.chrWindowWrite off v = s.answer .none := by
  simp [State.chrWindowWrite, chrLookup, hc]

/-- Where the graphics window shows `CHR`, a read of it answers its byte. -/
theorem chrWindowRead_driven {s : State} (hc : s.map.chr = .chrRamBank0) (off : BitVec 13) :
    s.chrWindowRead off = s.answer (.byte (s.chr.read off.toNat)) := by
  simp [State.chrWindowRead, chrLookup, hc]

/-- Where the graphics window is not driven, a read of it is a draw (R148). -/
theorem chrWindowRead_notDriven {s : State} (hc : s.map.chr = .notDriven) (off : BitVec 13) :
    s.chrWindowRead off = s.openBusRead := by
  simp [State.chrWindowRead, chrLookup, hc]

/-- Every next state of an operation is one of these. -/
theorem exec_effect {i : Instr} {s t : State} (h : exec i s = .next t) : Effect i s t := by
  cases i with
  | wnop _ _ | extw _ _ | rdram _ | rdlo _ | rdhi _ | extr _ | chrrd _ | chrext _ _ | ntsel _ _ =>
    exact .quiet rfl (exec_sameBlock rfl h)
  | save => obtain ⟨-, rfl⟩ := exec_save_next.mp h; exact .quiet rfl rfl
  | prgwAh _ _ => obtain ⟨hl, rfl⟩ := exec_prgwAh_next.mp h; exact .prgw rfl hl
  | prgwAhsr _ _ => obtain ⟨hl, rfl⟩ := exec_prgwAhsr_next.mp h; exact .prgw rfl hl
  | mirw off d => obtain ⟨hl, rfl⟩ := exec_mirw_next.mp h; exact .mirw off d hl
  | ramw off v => obtain ⟨hl, rfl⟩ := exec_ramw_next.mp h; exact .ramw off v hl
  | chrwr off v =>
    obtain ⟨hl, rfl⟩ := exec_chrwr_next.mp h
    cases hc : s.map.chr with
    | chrRamBank0 => rw [chrWindowWrite_driven hc]; exact .chrwr off v hl hc
    | notDriven => rw [chrWindowWrite_notDriven hc]; exact .undriven off v hl hc
  | construct => obtain ⟨hn, ha, rfl⟩ := exec_construct_next.mp h; exact .construct hn ha
  | power => obtain ⟨hp, rfl⟩ := exec_power_next.mp h; exact .power hp
  | restore img => obtain ⟨hl, hok, rfl⟩ := exec_restore_next.mp h; exact .restore img hl hok
  | close => obtain ⟨hn, rfl⟩ := exec_close_next.mp h; exact .close hn
  | sync => obtain rfl := exec_sync_next.mp h; exact .sync s

/-- `t` is `s` with another reply and another count of draws. -/
theorem sameBlock.eq_with {s t : State} (h : sameBlock s t) : ∃ r n, t = { s with reply := r, draws := n } :=
  ⟨_, _, h⟩

/-! ### The invariant -/

/-- The invariant says nothing about the list of requests. -/
theorem Inv.withPending {s : State} (hs : Inv s) (rest : List Request) : Inv { s with pending := rest } := { hs with }

/-- NONE is no phase in which a board owns memory (R36). -/
theorem Phase.ne_none_of_owning {p : Phase} (h : p.owning = true) : p ≠ .none := by
  rintro rfl; cases h

/-- Every operation keeps the invariant. -/
theorem Inv.of_exec {i : Instr} {s t : State} (hs : Inv s) (h : exec i s = .next t) : Inv t := by
  have hmirr := exec_mirr_lt hs.mirrWidth h
  cases exec_effect h with
  | quiet _ hb =>
    obtain ⟨r, n, rfl⟩ := hb.eq_with
    exact { hs with }
  | prgw _ _ | mirw _ _ _ => exact { hs with mirrWidth := hmirr, mapFresh := fun _ => rfl }
  | ramw off v _ => exact { hs with ramWf := Memory.wf_write hs.ramWf off.isLt v }
  | chrwr off v hl hc =>
    have hb : s.board.hasChrRam = true := by
      rw [hs.mapFresh hl] at hc
      by_contra hb
      simp [syncMap, hb] at hc
    exact { hs with
      chrWf := Memory.wf_write hs.chrWf off.isLt v
      chrAbsent := fun hf => absurd (hb.symm.trans hf) (by decide) }
  | undriven _ _ _ _ => exact { hs with }
  | construct hn ha =>
    exact { hs with
      ramWf := hs.ramInitWf
      chrWf := Memory.wf_ite (fun _ => hs.chrInitWf) fun _ => hs.chrWf
      chrAbsent := fun hf => (if_neg (ne_true_of_eq_false hf)).trans (hs.chrAbsent hf)
      mirrWidth := hmirr
      accepted := fun _ => ha
      mapFresh := nofun
      ownRam := rfl
      ownChr := rfl
      registered := fun _ => rfl
      cheated := nofun }
  | power hp =>
    have ho : s.phase.owning = true := by rcases hp with hp | hp <;> rw [hp] <;> rfl
    exact { hs with
      accepted := fun _ => hs.accepted ho
      mapFresh := fun _ => rfl
      ownRam := hs.ownRam.trans ho
      ownChr := hs.ownChr.trans (by rw [ho]; rfl)
      registered := fun _ => hs.registered (Phase.ne_none_of_owning ho)
      cheated := fun _ => rfl }
  | restore img _ hok =>
    exact { hs with
      ramWf := regionBytes_ram_wf hok
      chrWf := Memory.wf_ite (regionBytes_chr_wf hok) fun _ => hs.chrWf
      chrAbsent := fun hf => (if_neg (ne_true_of_eq_false hf)).trans (hs.chrAbsent hf)
      mirrWidth := hmirr
      mapFresh := fun _ => rfl }
  | close hn =>
    exact { hs with
      ramWf := Memory.wf_ite (fun _ => rfl) fun _ => hs.ramWf
      chrWf := Memory.wf_ite (fun _ => rfl) fun _ => hs.chrWf
      chrAbsent := fun hf => by rw [State.answer_chr, State.release_chr, hs.chrAbsent hf, ite_self]
      accepted := nofun
      mapFresh := nofun
      ownRam := rfl
      ownChr := rfl
      registered := fun _ => hs.registered hn
      cheated := nofun }
  | sync => exact { hs with mapFresh := fun _ => rfl }

/-- Every step keeps the invariant. -/
theorem Inv.of_step {s t : State} (hs : Inv s) (h : step s = .next t) : Inv t := by
  obtain ⟨-, rfl⟩ | ⟨_, rest, _, -, -, hi⟩ := step_cases h
  · exact hs
  · exact (hs.withPending rest).of_exec hi

/-! ### The program windows -/

/-- R33, R146: on a live board that meets the invariant the lower window shows a bank program memory has. -/
theorem Inv.prgLo_lt {s : State} (hs : Inv s) (hl : s.phase = .live) : s.map.prgLo.toNat < s.board.prgBanks := by
  rw [hs.mapFresh hl]
  exact reduceBank_lt (hs.banksOk hl) _

/-- R33, R137: on a live board that meets the invariant the upper window shows the last bank. -/
theorem Inv.prgHi_toNat {s : State} (hs : Inv s) (hl : s.phase = .live) :
    s.map.prgHi.toNat = s.board.prgBanks - 1 := by
  rw [hs.prgHi_eq hl, reduceBank_last (hs.banksOk hl)]

theorem Inv.prgHi_lt {s : State} (hs : Inv s) (hl : s.phase = .live) : s.map.prgHi.toNat < s.board.prgBanks := by
  rw [hs.prgHi_eq hl]
  exact reduceBank_lt (hs.banksOk hl) _

/-- R161: on a live board that meets the invariant RDLO completes. -/
theorem exec_rdlo_live {s : State} (hs : Inv s) (hl : s.phase = .live) (off : BitVec 14) :
    exec (.rdlo off) s = .next (s.answer (.byte (s.launch.rom.read (romIndex s.map.prgLo off)))) :=
  exec_rdlo_next.mpr ⟨hl, romIndex_lt (hs.prgLo_lt hl) off, rfl⟩

/-- R162: on a live board that meets the invariant RDHI completes. -/
theorem exec_rdhi_live {s : State} (hs : Inv s) (hl : s.phase = .live) (off : BitVec 14) :
    exec (.rdhi off) s = .next (s.answer (.byte (s.launch.rom.read (romIndex s.map.prgHi off)))) :=
  exec_rdhi_next.mpr ⟨hl, romIndex_lt (hs.prgHi_lt hl) off, rfl⟩

/-! ### Bus transactions -/

/-- R83, R175: on a live board that meets the invariant every bus transaction completes. -/
theorem exec_bus_live {i : Instr} {s : State} (hs : Inv s) (hl : s.phase = .live) (hi : i.isBus = true) :
    ∃ t, exec i s = .next t := by
  cases i with
  | rdlo off => exact ⟨_, exec_rdlo_live hs hl off⟩
  | rdhi off => exact ⟨_, exec_rdhi_live hs hl off⟩
  | construct | power | save | restore _ | close | sync => cases hi
  | _ => exact ⟨_, whenAdmitted_of_none _ (admission_bus.mpr hl)⟩

/-- R208: a bus transaction that completes writes the registers, the memories, the mapping and the two fields of the
model's own, and nothing else. -/
theorem exec_bus_frame {i : Instr} {s t : State} (hi : i.isBus = true) (h : exec i s = .next t) :
    t = { s with prg := t.prg, mirr := t.mirr, ram := t.ram, chr := t.chr, map := t.map,
                 reply := t.reply, draws := t.draws } := by
  cases exec_effect h with
  | quiet _ hb => obtain ⟨r, n, rfl⟩ := hb.eq_with; rfl
  | prgw _ _ | mirw _ _ _ | ramw _ _ _ | chrwr _ _ _ _ | undriven _ _ _ _ => rfl
  | construct _ _ | power _ | restore _ _ _ | close _ | sync => cases hi

/-- A request of a bus master decodes to a bus transaction (R83, R84, R208). -/
theorem decode_bus {b : Board} {r : Request} (hr : r.agent ≠ .host) :
    ∃ i, decode b r = .ok i ∧ i.isBus = true := by
  cases r with
  | cpu t =>
    refine ⟨_, rfl, ?_⟩
    unfold decodeCpu decodeCpuWrite decodeCpuRead prgwFor
    cases b.shift <;> split_ifs <;> rfl
  | ppu t =>
    refine ⟨_, rfl, ?_⟩
    unfold decodePpu decodePpuAccess
    cases busIsWrite b.ppuAddrW t <;> split_ifs <;> rfl
  | host op img => exact absurd rfl hr

/-! ### A step -/

/-- A step runs the operation its first listed request decodes to, with that request taken off the list (R15(c)). -/
theorem step_of_decode {s : State} {r : Request} {rest : List Request} {i : Instr} (hp : s.pending = r :: rest)
    (hd : decode s.board r = .ok i) : step s = exec i { s with pending := rest } := by
  simp [step, State.fetch, hp, hd]

/-- A step whose first listed request spells no operation is refused (R201). -/
theorem step_of_error {s : State} {r : Request} {rest : List Request} {e : DecodeError} (hp : s.pending = r :: rest)
    (hd : decode s.board r = .error e) : step s = .refused (refusalOf e) := by
  simp [step, State.fetch, hp, hd]

/-- With nothing listed a step changes nothing (R15(c)). -/
theorem step_of_nil {s : State} (hp : s.pending = []) : step s = .next s := by
  simp [step, State.fetch, hp]

/-! ### No fault -/

theorem whenAdmitted_ne_fault {c : OpClass} {s : State} {run : Host.Outcome State Fault Refusal} {f : Fault}
    (h : admission c s.phase = none → run ≠ .fault f) : whenAdmitted c s run ≠ .fault f := by
  unfold whenAdmitted
  split
  · exact h ‹_›
  · nofun

theorem readRom_ne_fault {k : Nat} {s : State} {f : Fault} (h : k < s.board.romSize) : readRom k s ≠ .fault f := by
  rw [readRom, if_pos h]
  nofun

/-- R146, R200: from a state that meets the invariant no operation faults; the two reads of program memory, the only
ones with a guard, are inside it. -/
theorem exec_ne_fault {s : State} (hs : Inv s) (i : Instr) (f : Fault) : exec i s ≠ .fault f := by
  cases i with
  | rdlo off =>
    exact whenAdmitted_ne_fault fun ha => readRom_ne_fault (romIndex_lt (hs.prgLo_lt (admission_bus.mp ha)) off)
  | rdhi off =>
    exact whenAdmitted_ne_fault fun ha => readRom_ne_fault (romIndex_lt (hs.prgHi_lt (admission_bus.mp ha)) off)
  | construct => exact whenAdmitted_ne_fault fun _ => by split_ifs <;> nofun
  | restore img => exact whenAdmitted_ne_fault fun _ => by split_ifs <;> nofun
  | sync => nofun
  | _ => exact whenAdmitted_ne_fault fun _ => nofun

/-! ### The statements -/

/-- Settles O51: `Inv.of_step`, which is `Inv.of_exec` for the operation that the step runs. -/
theorem stepKeepsInvariant : Obligations.StepKeepsInvariant := fun _ _ => Inv.of_step

/-- Settles O52: a step answers the state itself, a refusal, or what an operation answers (`exec_ne_fault`). -/
theorem noStepFaults : Obligations.NoStepFaults := by
  intro s f hs
  cases hp : s.pending with
  | nil => rw [step_of_nil hp]; nofun
  | cons r rest =>
    cases hd : decode s.board r with
    | error e => rw [step_of_error hp hd]; nofun
    | ok i => rw [step_of_decode hp hd]; exact exec_ne_fault (hs.withPending rest) i f

/-- Settles O53: the request decodes to a bus transaction (`decode_bus`), which completes (`exec_bus_live`) and writes
neither the phase nor the list (`exec_bus_frame`). -/
theorem liveBoardAcceptsEveryTransaction : Obligations.LiveBoardAcceptsEveryTransaction := by
  intro s r rest hs hl hp hr
  obtain ⟨i, hd, hi⟩ := decode_bus (b := s.board) hr
  obtain ⟨t, ht⟩ := exec_bus_live (hs.withPending rest) hl hi
  have hframe := exec_bus_frame hi ht
  exact ⟨t, by rw [step_of_decode hp hd, ht], (congrArg State.phase hframe).trans hl, congrArg State.pending hframe⟩

end Sys2Proof.Machine

/-! PROOFS. The decoder and the encoder (R80 to R89): which operation an address decodes to, window by window, and the
two round trips. -/

namespace Sys2Proof

/-! ### The windows of a board that meets R53 and R55 -/

/-- An address of one of two windows that are apart is not in the other. -/
theorem inRange_eq_false_of_apart {base₁ size₁ base₂ size₂ a : Nat} (h : apart base₁ size₁ base₂ size₂ = true)
    (ha : inRange base₁ size₁ a = true) : inRange base₂ size₂ a = false := by
  rw [← Bool.not_eq_true, inRange_iff]
  rw [inRange_iff] at ha
  simp only [apart, Bool.or_eq_true, decide_eq_true_eq] at h
  omega

theorem apart_comm {base₁ size₁ base₂ size₂ : Nat} (h : apart base₁ size₁ base₂ size₂ = true) :
    apart base₂ size₂ base₁ size₁ = true := by
  rwa [apart, Bool.or_comm]

section
variable {b : Board} {a : Nat}

/-- The parts of R53 and R55. -/
theorem mapOk_parts (h : b.mapOk = true) : b.aligned = true ∧ b.writesApart = true ∧ b.mirrBase < b.prgcBase ∧
    b.readCovers = true ∧ b.readsApart = true ∧ b.inSpace = true := by
  simpa [Board.mapOk, and_assoc] using h

/-- R55(a): the write windows are apart. -/
theorem writes_apart (h : b.mapOk = true) : apart b.ramBase 0x2000 b.mirrBase 0x2000 = true ∧
    apart b.ramBase 0x2000 b.prgcBase 0x2000 = true ∧ apart b.mirrBase 0x2000 b.prgcBase 0x2000 = true := by
  obtain ⟨-, hw, -⟩ := mapOk_parts h
  simpa [Board.writesApart, and_assoc] using hw

/-- R55(d): the read windows are apart. -/
theorem reads_apart (h : b.mapOk = true) : apart b.prgLoBase 0x4000 b.prgHiBase 0x4000 = true ∧
    apart b.ramBase 0x2000 b.prgLoBase 0x4000 = true ∧ apart b.ramBase 0x2000 b.prgHiBase 0x4000 = true := by
  obtain ⟨-, -, -, -, hr, -⟩ := mapOk_parts h
  simp only [Board.readsApart, Bool.and_eq_true] at hr
  obtain ⟨⟨⟨hlh, -⟩, hrl⟩, hrh⟩ := hr
  exact ⟨hlh, hrl, hrh⟩

/-- R55(a): an address of the program-bank-control range is in no other write window. -/
theorem inMirr_inRam_eq_false_of_inPrgc (h : b.mapOk = true) (ha : b.inPrgc a = true) :
    b.inMirr a = false ∧ b.inRam a = false := by
  obtain ⟨-, hrp, hmp⟩ := writes_apart h
  exact ⟨inRange_eq_false_of_apart (apart_comm hmp) ha, inRange_eq_false_of_apart (apart_comm hrp) ha⟩

/-- R55(a): an address of the mirroring-control range is in no other write window. -/
theorem inPrgc_inRam_eq_false_of_inMirr (h : b.mapOk = true) (ha : b.inMirr a = true) :
    b.inPrgc a = false ∧ b.inRam a = false := by
  obtain ⟨hrm, -, hmp⟩ := writes_apart h
  exact ⟨inRange_eq_false_of_apart hmp ha, inRange_eq_false_of_apart (apart_comm hrm) ha⟩

/-- R55(a): an address of the scratch-RAM window is in neither control range. -/
theorem inPrgc_inMirr_eq_false_of_inRam (h : b.mapOk = true) (ha : b.inRam a = true) :
    b.inPrgc a = false ∧ b.inMirr a = false := by
  obtain ⟨hrm, hrp, -⟩ := writes_apart h
  exact ⟨inRange_eq_false_of_apart hrp ha, inRange_eq_false_of_apart hrm ha⟩

/-- R55(d): an address of the lower program window is not in the scratch-RAM window. -/
theorem inRam_eq_false_of_inPrgLo (h : b.mapOk = true) (ha : b.inPrgLo a = true) : b.inRam a = false := by
  obtain ⟨-, hrl, -⟩ := reads_apart h
  exact inRange_eq_false_of_apart (apart_comm hrl) ha

/-- R55(d): an address of the upper program window is in no other read window. -/
theorem inRam_inPrgLo_eq_false_of_inPrgHi (h : b.mapOk = true) (ha : b.inPrgHi a = true) :
    b.inRam a = false ∧ b.inPrgLo a = false := by
  obtain ⟨hlh, -, hrh⟩ := reads_apart h
  exact ⟨inRange_eq_false_of_apart (apart_comm hrh) ha, inRange_eq_false_of_apart (apart_comm hlh) ha⟩

/-- R55(e): every address of a window is one the bus has. -/
theorem lt_of_inWindow (h : b.mapOk = true)
    (ha : (b.inWriteWindow a || b.inReadWindow a) = true) : a < 2 ^ b.addrW := by
  obtain ⟨-, -, -, -, -, hs⟩ := mapOk_parts h
  simp only [Board.inSpace, Bool.and_eq_true, decide_eq_true_eq] at hs
  simp only [Board.inWriteWindow, Board.inReadWindow, Bool.or_eq_true, Board.inPrgc, Board.inMirr, Board.inRam,
    Board.inPrgLo, Board.inPrgHi, inRange_iff] at ha
  omega

/-! ### Which operation an address decodes to -/

/-- R83: a write in the program-bank-control range. -/
theorem decodeCpuWrite_of_inPrgc (ha : b.inPrgc a = true) (d : Byte) :
    decodeCpuWrite b a d = prgwFor b.shift (offsetIn 13 b.prgcBase a) d := by
  simp [decodeCpuWrite, ha]

/-- R83: a write in the mirroring-control range. -/
theorem decodeCpuWrite_of_inMirr (h : b.mapOk = true) (ha : b.inMirr a = true) (d : Byte) :
    decodeCpuWrite b a d = .mirw (offsetIn 13 b.mirrBase a) d := by
  simp [decodeCpuWrite, inPrgc_inRam_eq_false_of_inMirr h ha, ha]

/-- R83: a write in the scratch-RAM window. -/
theorem decodeCpuWrite_of_inRam (h : b.mapOk = true) (ha : b.inRam a = true) (d : Byte) :
    decodeCpuWrite b a d = .ramw (offsetIn 13 b.ramBase a) d := by
  simp [decodeCpuWrite, inPrgc_inMirr_eq_false_of_inRam h ha, ha]

/-- R83: a write in no write window, inside the read range or outside it. -/
theorem decodeCpuWrite_of_not_inWriteWindow (ha : b.inWriteWindow a = false) (d : Byte) :
    decodeCpuWrite b a d = if b.inRead a then .wnop a d else .extw a d := by
  simp only [Board.inWriteWindow, Bool.or_eq_false_iff] at ha
  simp [decodeCpuWrite, ha]

/-- R83: a read in the scratch-RAM window. -/
theorem decodeCpuRead_of_inRam (ha : b.inRam a = true) : decodeCpuRead b a = .rdram (offsetIn 13 b.ramBase a) := by
  simp [decodeCpuRead, ha]

/-- R83: a read in the lower program window. -/
theorem decodeCpuRead_of_inPrgLo (h : b.mapOk = true) (ha : b.inPrgLo a = true) :
    decodeCpuRead b a = .rdlo (offsetIn 14 b.prgLoBase a) := by
  simp [decodeCpuRead, inRam_eq_false_of_inPrgLo h ha, ha]

/-- R83: a read in the upper program window. -/
theorem decodeCpuRead_of_inPrgHi (h : b.mapOk = true) (ha : b.inPrgHi a = true) :
    decodeCpuRead b a = .rdhi (offsetIn 14 b.prgHiBase a) := by
  simp [decodeCpuRead, inRam_inPrgLo_eq_false_of_inPrgHi h ha, ha]

/-- R83: a read in no read window. -/
theorem decodeCpuRead_of_not_inReadWindow (ha : b.inReadWindow a = false) : decodeCpuRead b a = .extr a := by
  simp only [Board.inReadWindow, Bool.or_eq_false_iff] at ha
  simp [decodeCpuRead, ha]

/-- R84: an access in the video-RAM range. -/
theorem decodePpuAccess_of_inVideoRam (ha : inVideoRam a = true) (acc : Access) :
    decodePpuAccess b a acc = .ntsel (offsetIn 13 0x2000 a) acc := by
  simp [decodePpuAccess, ha]

/-- R84: a read in the graphics window of a board with graphics RAM. -/
theorem decodePpuAccess_read_of_inGraphics (ha : inGraphics a = true) (hc : b.hasChrRam = true) :
    decodePpuAccess b a .read = .chrrd (offsetIn 13 0 a) := by
  simp [decodePpuAccess, inVideoRam_eq_false ha, ha, hc]

/-- R84: a write in the graphics window of a board with graphics RAM. -/
theorem decodePpuAccess_write_of_inGraphics (ha : inGraphics a = true) (hc : b.hasChrRam = true) (v : Byte) :
    decodePpuAccess b a (.write v) = .chrwr (offsetIn 13 0 a) v := by
  simp [decodePpuAccess, inVideoRam_eq_false ha, ha, hc]

/-- R84, R57: an access that neither the video RAM nor a graphics RAM of the board takes. -/
theorem decodePpuAccess_of_neither (hv : inVideoRam a = false) (hg : (inGraphics a && b.hasChrRam) = false)
    (acc : Access) : decodePpuAccess b a acc = .chrext a acc := by
  simp [decodePpuAccess, hv, hg]

/-! ### Decoding an encoded operation -/

/-- The program-bank write of the board's shift discipline has one word, whichever the discipline. -/
theorem decode_prgcWord (h : b.mapOk = true) (off : BitVec 13) (d : Byte) :
    decode b (.cpu (cpuWord b true (addrAt b.prgcBase off) d)) = .ok (prgwFor b.shift off d) := by
  have hin : b.inPrgc (addrAt b.prgcBase off) = true := inRange_addrAt off
  rw [decode_cpuWrite d (lt_of_inWindow h (by simp [Board.inWriteWindow, hin])), decodeCpuWrite_of_inPrgc hin,
    offsetIn_addrAt]

theorem decode_mirrWord (h : b.mapOk = true) (off : BitVec 13) (d : Byte) :
    decode b (.cpu (cpuWord b true (addrAt b.mirrBase off) d)) = .ok (.mirw off d) := by
  have hin : b.inMirr (addrAt b.mirrBase off) = true := inRange_addrAt off
  rw [decode_cpuWrite d (lt_of_inWindow h (by simp [Board.inWriteWindow, hin])), decodeCpuWrite_of_inMirr h hin,
    offsetIn_addrAt]

theorem decode_ramWriteWord (h : b.mapOk = true) (off : BitVec 13) (v : Byte) :
    decode b (.cpu (cpuWord b true (addrAt b.ramBase off) v)) = .ok (.ramw off v) := by
  have hin : b.inRam (addrAt b.ramBase off) = true := inRange_addrAt off
  rw [decode_cpuWrite v (lt_of_inWindow h (by simp [Board.inWriteWindow, hin])), decodeCpuWrite_of_inRam h hin,
    offsetIn_addrAt]

theorem decode_ramReadWord (h : b.mapOk = true) (off : BitVec 13) :
    decode b (.cpu (cpuWord b false (addrAt b.ramBase off) 0)) = .ok (.rdram off) := by
  have hin : b.inRam (addrAt b.ramBase off) = true := inRange_addrAt off
  rw [decode_cpuRead 0 (lt_of_inWindow h (by simp [Board.inWriteWindow, hin])), decodeCpuRead_of_inRam hin,
    offsetIn_addrAt]

theorem decode_prgLoWord (h : b.mapOk = true) (off : BitVec 14) :
    decode b (.cpu (cpuWord b false (addrAt b.prgLoBase off) 0)) = .ok (.rdlo off) := by
  have hin : b.inPrgLo (addrAt b.prgLoBase off) = true := inRange_addrAt off
  rw [decode_cpuRead 0 (lt_of_inWindow h (by simp [Board.inReadWindow, hin])), decodeCpuRead_of_inPrgLo h hin,
    offsetIn_addrAt]

theorem decode_prgHiWord (h : b.mapOk = true) (off : BitVec 14) :
    decode b (.cpu (cpuWord b false (addrAt b.prgHiBase off) 0)) = .ok (.rdhi off) := by
  have hin : b.inPrgHi (addrAt b.prgHiBase off) = true := inRange_addrAt off
  rw [decode_cpuRead 0 (lt_of_inWindow h (by simp [Board.inReadWindow, hin])), decodeCpuRead_of_inPrgHi h hin,
    offsetIn_addrAt]

/-- The address at an offset of the graphics window is the offset itself. -/
theorem addrAt_zero {n : Nat} (off : BitVec n) : addrAt 0 off = off.toNat := Nat.zero_add _

theorem inGraphics_addrAt (off : BitVec 13) : inGraphics (addrAt 0 off) = true := inRange_addrAt off

theorem inVideoRam_addrAt (off : BitVec 13) : inVideoRam (addrAt 0x2000 off) = true := inRange_addrAt off

end

/-- R80 to R86: the word of a well-formed operation decodes to it. -/
theorem decode_encode {b : Board} (h : b.mapOk = true) {i : Instr} (hi : i.wellFormed b = true) :
    ∃ r, encode b i = some r ∧ decode b r = .ok i := by
  cases i with
  | prgwAh off d =>
    have hv : b.shift = .appendHigh := of_decide_eq_true hi
    exact ⟨_, rfl, by rw [decode_prgcWord h, hv]; rfl⟩
  | prgwAhsr off d =>
    have hv : b.shift = .appendHighShiftRight := of_decide_eq_true hi
    exact ⟨_, rfl, by rw [decode_prgcWord h, hv]; rfl⟩
  | mirw off d => exact ⟨_, rfl, decode_mirrWord h off d⟩
  | ramw off v => exact ⟨_, rfl, decode_ramWriteWord h off v⟩
  | wnop a d =>
    simp only [Instr.wellFormed, Bool.and_eq_true, decide_eq_true_eq, Bool.not_eq_true'] at hi
    obtain ⟨⟨hlt, hw⟩, hr⟩ := hi
    exact ⟨_, rfl, by rw [decode_cpuWrite d hlt, decodeCpuWrite_of_not_inWriteWindow hw, if_pos hr]⟩
  | extw a d =>
    simp only [Instr.wellFormed, Bool.and_eq_true, decide_eq_true_eq, Bool.not_eq_true'] at hi
    obtain ⟨⟨hlt, hw⟩, hr⟩ := hi
    exact ⟨_, rfl, by rw [decode_cpuWrite d hlt, decodeCpuWrite_of_not_inWriteWindow hw, if_neg (by simp [hr])]⟩
  | rdram off => exact ⟨_, rfl, decode_ramReadWord h off⟩
  | rdlo off => exact ⟨_, rfl, decode_prgLoWord h off⟩
  | rdhi off => exact ⟨_, rfl, decode_prgHiWord h off⟩
  | extr a =>
    simp only [Instr.wellFormed, Bool.and_eq_true, decide_eq_true_eq, Bool.not_eq_true'] at hi
    obtain ⟨hlt, hr⟩ := hi
    exact ⟨_, rfl, by rw [decode_cpuRead 0 hlt, decodeCpuRead_of_not_inReadWindow hr]⟩
  | chrrd off =>
    simp only [Instr.wellFormed, Bool.and_eq_true, decide_eq_true_eq] at hi
    obtain ⟨hlt, hc⟩ := hi
    rw [← addrAt_zero] at hlt
    refine ⟨_, rfl, ?_⟩
    rw [decode_ppuAccess _ hlt, decodePpuAccess_read_of_inGraphics (inGraphics_addrAt off) hc, offsetIn_addrAt]
  | chrwr off v =>
    simp only [Instr.wellFormed, Bool.and_eq_true, decide_eq_true_eq] at hi
    obtain ⟨hlt, hc⟩ := hi
    rw [← addrAt_zero] at hlt
    refine ⟨_, rfl, ?_⟩
    rw [decode_ppuAccess _ hlt, decodePpuAccess_write_of_inGraphics (inGraphics_addrAt off) hc, offsetIn_addrAt]
  | chrext pa acc =>
    simp only [Instr.wellFormed, Bool.and_eq_true, decide_eq_true_eq, Bool.not_eq_true'] at hi
    obtain ⟨⟨hlt, hg⟩, hv⟩ := hi
    exact ⟨_, rfl, by rw [decode_ppuAccess _ hlt, decodePpuAccess_of_neither hv hg]⟩
  | ntsel pa acc =>
    have hlt : addrAt 0x2000 pa < 2 ^ b.ppuAddrW := of_decide_eq_true hi
    refine ⟨_, rfl, ?_⟩
    rw [decode_ppuAccess _ hlt, decodePpuAccess_of_inVideoRam (inVideoRam_addrAt pa), offsetIn_addrAt]
  | construct | power | save | restore _ | close => exact ⟨_, rfl, rfl⟩
  | sync => cases hi

/-! ### Encoding a decoded operation -/

/-- The program-bank write of the board's shift discipline is well formed, and has the word of its offset. -/
theorem encode_prgwFor (b : Board) (off : BitVec 13) (d : Byte) :
    (prgwFor b.shift off d).wellFormed b = true ∧
      encode b (prgwFor b.shift off d) = some (.cpu (cpuWord b true (addrAt b.prgcBase off) d)) := by
  cases hv : b.shift with
  | appendHigh => exact ⟨decide_eq_true hv, rfl⟩
  | appendHighShiftRight => exact ⟨decide_eq_true hv, rfl⟩

/-- R83, R86: what a CPU write decodes to is well formed, and has the word of that write. -/
theorem encode_decodeCpuWrite {b : Board} {a : Nat} (h : b.mapOk = true) (hlt : a < 2 ^ b.addrW) (d : Byte) :
    (decodeCpuWrite b a d).wellFormed b = true ∧
      encode b (decodeCpuWrite b a d) = some (.cpu (cpuWord b true a d)) := by
  cases hp : b.inPrgc a with
  | true =>
    have henc := encode_prgwFor b (offsetIn 13 b.prgcBase a) d
    rwa [addrAt_offsetIn (n := 13) hp, ← decodeCpuWrite_of_inPrgc hp] at henc
  | false =>
  cases hm : b.inMirr a with
  | true =>
    rw [decodeCpuWrite_of_inMirr h hm]
    exact ⟨rfl, by rw [encode, addrAt_offsetIn (n := 13) hm]⟩
  | false =>
  cases hr : b.inRam a with
  | true =>
    rw [decodeCpuWrite_of_inRam h hr]
    exact ⟨rfl, by rw [encode, addrAt_offsetIn (n := 13) hr]⟩
  | false =>
    have hw : b.inWriteWindow a = false := by simp [Board.inWriteWindow, hp, hm, hr]
    rw [decodeCpuWrite_of_not_inWriteWindow hw]
    cases hread : b.inRead a with
    | true => exact ⟨by simp [Instr.wellFormed, hlt, hw, hread], rfl⟩
    | false => exact ⟨by simp [Instr.wellFormed, hlt, hw, hread], rfl⟩

/-- R83, R86: what a CPU read decodes to is well formed, and has the word of that read. -/
theorem encode_decodeCpuRead {b : Board} {a : Nat} (h : b.mapOk = true) (hlt : a < 2 ^ b.addrW) :
    (decodeCpuRead b a).wellFormed b = true ∧ encode b (decodeCpuRead b a) = some (.cpu (cpuWord b false a 0)) := by
  cases hr : b.inRam a with
  | true =>
    rw [decodeCpuRead_of_inRam hr]
    exact ⟨rfl, by rw [encode, addrAt_offsetIn (n := 13) hr]⟩
  | false =>
  cases hlo : b.inPrgLo a with
  | true =>
    rw [decodeCpuRead_of_inPrgLo h hlo]
    exact ⟨rfl, by rw [encode, addrAt_offsetIn (n := 14) hlo]⟩
  | false =>
  cases hhi : b.inPrgHi a with
  | true =>
    rw [decodeCpuRead_of_inPrgHi h hhi]
    exact ⟨rfl, by rw [encode, addrAt_offsetIn (n := 14) hhi]⟩
  | false =>
    have hw : b.inReadWindow a = false := by simp [Board.inReadWindow, hr, hlo, hhi]
    rw [decodeCpuRead_of_not_inReadWindow hw]
    exact ⟨by simp [Instr.wellFormed, hlt, hw], rfl⟩

/-- R84, R86: what a PPU access decodes to is well formed, and has the word of that access. -/
theorem encode_decodePpuAccess {b : Board} {pa : Nat} (hlt : pa < 2 ^ b.ppuAddrW) (acc : Access) :
    (decodePpuAccess b pa acc).wellFormed b = true ∧
      encode b (decodePpuAccess b pa acc) = some (.ppu (ppuAccess b pa acc)) := by
  cases hv : inVideoRam pa with
  | true =>
    have haddr := addrAt_offsetIn (n := 13) hv
    rw [decodePpuAccess_of_inVideoRam hv]
    have hlt' : addrAt 0x2000 (offsetIn 13 0x2000 pa) < 2 ^ b.ppuAddrW := by rwa [haddr]
    exact ⟨decide_eq_true hlt', by rw [encode, haddr]⟩
  | false =>
  cases hg : inGraphics pa && b.hasChrRam with
  | true =>
    obtain ⟨hgr, hc⟩ := Bool.and_eq_true_iff.mp hg
    have haddr := addrAt_offsetIn (n := 13) hgr
    have hlt' : (offsetIn 13 0 pa).toNat < 2 ^ b.ppuAddrW := by rwa [← addrAt_zero, haddr]
    cases acc with
    | read =>
      rw [decodePpuAccess_read_of_inGraphics hgr hc]
      exact ⟨by simp [Instr.wellFormed, hlt', hc], by rw [encode, haddr]⟩
    | write v =>
      rw [decodePpuAccess_write_of_inGraphics hgr hc]
      exact ⟨by simp [Instr.wellFormed, hlt', hc], by rw [encode, haddr]⟩
  | false =>
    rw [decodePpuAccess_of_neither hv hg]
    exact ⟨by simp [Instr.wellFormed, hlt, hv, hg], rfl⟩

/-- R82: the five selectors that spell an operation. -/
theorem decodeHost_cases {op : BitVec 3} {img : Image} {i : Instr} (hd : decodeHost op img = .ok i) :
    (op = 0 ∧ i = .construct) ∨ (op = 1 ∧ i = .power) ∨ (op = 2 ∧ i = .save) ∨ (op = 3 ∧ i = .restore img) ∨
      (op = 4 ∧ i = .close) := by
  have hop : ∀ {k : BitVec 3}, op.toNat = k.toNat → op = k := BitVec.eq_of_toNat_eq
  unfold decodeHost at hd
  split at hd <;> cases hd
  · exact .inl ⟨hop ‹_›, rfl⟩
  · exact .inr (.inl ⟨hop ‹_›, rfl⟩)
  · exact .inr (.inr (.inl ⟨hop ‹_›, rfl⟩))
  · exact .inr (.inr (.inr (.inl ⟨hop ‹_›, rfl⟩)))
  · exact .inr (.inr (.inr (.inr ⟨hop ‹_›, rfl⟩)))

/-- R82: what a HOST word decodes to is well formed, and has that word, the image being RESTORE's alone. -/
theorem encode_decodeHost {b : Board} {op : BitVec 3} {img : Image} {i : Instr} (hd : decodeHost op img = .ok i) :
    i.wellFormed b = true ∧ encode b i = some ((Request.host op img).canonical b) := by
  obtain ⟨rfl, rfl⟩ | ⟨rfl, rfl⟩ | ⟨rfl, rfl⟩ | ⟨rfl, rfl⟩ | ⟨rfl, rfl⟩ := decodeHost_cases hd <;> exact ⟨rfl, rfl⟩

/-- A write word without the bits above its length. -/
theorem canonicalWord_write {n t : Nat} (hw : busIsWrite n t = true) :
    canonicalWord n t = busWord n true (busAddr n t) (busData t) := by
  simp [canonicalWord, hw]

/-- A read word without its data and the bits above its length. -/
theorem canonicalWord_read {n t : Nat} (hw : busIsWrite n t = false) :
    canonicalWord n t = busWord n false (busAddr n t) 0 := by
  simp [canonicalWord, hw]

/-- R80, R83: what a CPU word decodes to is well formed, and has that word. -/
theorem encode_decodeCpu {b : Board} (h : b.mapOk = true) (t : Nat) :
    (decodeCpu b t).wellFormed b = true ∧ encode b (decodeCpu b t) = some ((Request.cpu t).canonical b) := by
  have hlt := busAddr_lt b.addrW t
  rw [decodeCpu, Request.canonical]
  cases hw : busIsWrite b.addrW t with
  | true =>
    rw [canonicalWord_write hw, if_pos rfl]
    exact encode_decodeCpuWrite h hlt _
  | false =>
    rw [canonicalWord_read hw, if_neg Bool.false_ne_true]
    exact encode_decodeCpuRead h hlt

/-- R81, R84: what a PPU word decodes to is well formed, and has that word. -/
theorem encode_decodePpu (b : Board) (t : Nat) :
    (decodePpu b t).wellFormed b = true ∧ encode b (decodePpu b t) = some ((Request.ppu t).canonical b) := by
  have hlt := busAddr_lt b.ppuAddrW t
  rw [decodePpu, Request.canonical]
  cases hw : busIsWrite b.ppuAddrW t with
  | true =>
    rw [canonicalWord_write hw, if_pos rfl]
    exact encode_decodePpuAccess hlt (.write (busData t))
  | false =>
    rw [canonicalWord_read hw, if_neg Bool.false_ne_true]
    exact encode_decodePpuAccess hlt .read

/-! ### The statements -/

/-- Settles O5: `decode_encode`. -/
theorem encodeThenDecode : Obligations.EncodeThenDecode := fun _ _ h => decode_encode h

/-- Settles O6: each format by its lemma. -/
theorem decodeThenEncode : Obligations.DecodeThenEncode := by
  intro b r i h hd
  cases r with
  | cpu t => obtain rfl : decodeCpu b t = i := Except.ok.inj hd; exact encode_decodeCpu h t
  | ppu t => obtain rfl : decodePpu b t = i := Except.ok.inj hd; exact encode_decodePpu b t
  | host op img => exact encode_decodeHost hd

end Sys2Proof

/-! PROOFS. The rows of spec/opcode_table.json (R83, R84, R92): at the default addresses and widths a row and the decoder
read of a bus word only its top bits, so every word is compared with the word of its top bits alone, on a board with
the two parameters the rows name. -/

namespace Sys2Proof

/-- A board at the default addresses and widths, with the two parameters that rows name. -/
def tableBoard (v : ShiftVariant) (p : Bool) : Board := { Board.default with shift := v, hasChrRam := p }

/-- The request of a bus word with its top bits alone: `W` and bits 15:13 of a CPU address, `W` and bit 13 of a PPU
address; a host word is its selector. -/
def Request.top : Request → Request
  | .cpu t => .cpu (t / 2 ^ 21 % 2 ^ 4 * 2 ^ 21)
  | .ppu t => .ppu (t / 2 ^ 21 % 2 ^ 2 * 2 ^ 21)
  | .host op _ => .host op []

/-- A mask that is a multiple `m * 2 ^ 21` reads of a number only the bits of `m`. -/
theorem and_mask_top (t m k : Nat) (hm : m < 2 ^ k) :
    t &&& m * 2 ^ 21 = (t / 2 ^ 21 % 2 ^ k * 2 ^ 21) &&& m * 2 ^ 21 := by
  apply Nat.eq_of_testBit_eq
  intro j
  simp only [Nat.testBit_and, Nat.testBit_mul_two_pow, Nat.testBit_mod_two_pow, Nat.testBit_div_two_pow]
  by_cases hj : 21 ≤ j
  · by_cases hjk : j - 21 < k
    · simp [hj, hjk]
    · have hpow : 2 ^ k ≤ 2 ^ (j - 21) := Nat.pow_le_pow_right (by decide) (by omega)
      simp [Nat.testBit_lt_two_pow (hm.trans_le hpow)]
  · simp [hj]

/-! ### Selection of a row -/

/-- A mask of a `CPU` row is of bits 24:21, of a `PPU` row of bits 22:21. -/
theorem opcodeTable_masks : ∀ row ∈ opcodeTable,
    (row.format = .cpu → row.mask / 2 ^ 21 < 2 ^ 4 ∧ row.mask / 2 ^ 21 * 2 ^ 21 = row.mask) ∧
    (row.format = .ppu → row.mask / 2 ^ 21 < 2 ^ 2 ∧ row.mask / 2 ^ 21 * 2 ^ 21 = row.mask) := by
  decide

theorem holds_tableBoard (b : Board) (c : RowCond) : c.holds b = c.holds (tableBoard b.shift b.hasChrRam) := by
  cases c <;> rfl

/-- A row of the table selects a request as it selects the request's top bits. -/
theorem selects_top {row : Row} (hrow : row ∈ opcodeTable) (b : Board) (r : Request) :
    row.selects b r = row.selects (tableBoard b.shift b.hasChrRam) r.top := by
  obtain ⟨hcpu, hppu⟩ := opcodeTable_masks row hrow
  unfold Row.selects
  rw [← holds_tableBoard]
  cases r with
  | host op img => rfl
  | cpu t =>
    by_cases hf : row.format = .cpu
    · obtain ⟨hlt, hmask⟩ := hcpu hf
      have hand := and_mask_top t _ 4 hlt
      rw [hmask] at hand
      show (_ && decide (t &&& row.mask = row.pattern) && _) = _
      rw [hand]
      rfl
    · simp [Request.top, Request.format, hf]
  | ppu t =>
    by_cases hf : row.format = .ppu
    · obtain ⟨hlt, hmask⟩ := hppu hf
      have hand := and_mask_top t _ 2 hlt
      rw [hmask] at hand
      show (_ && decide (t &&& row.mask = row.pattern) && _) = _
      rw [hand]
      rfl
    · simp [Request.top, Request.format, hf]

/-! ### The operation decoded -/

section
variable {b b' : Board} {a a' : Nat}

/-- The row of a CPU write is told by the windows that hold its address. -/
theorem decodeCpuWrite_op_congr (hv : b.shift = b'.shift) (hp : b.inPrgc a = b'.inPrgc a')
    (hm : b.inMirr a = b'.inMirr a') (hr : b.inRam a = b'.inRam a') (hd : b.inRead a = b'.inRead a') (d d' : Byte) :
    (decodeCpuWrite b a d).op = (decodeCpuWrite b' a' d').op := by
  unfold decodeCpuWrite prgwFor
  rw [hv, hp, hm, hr, hd]
  cases b'.shift <;> split_ifs <;> rfl

/-- The row of a CPU read is told by the windows that hold its address. -/
theorem decodeCpuRead_op_congr (hr : b.inRam a = b'.inRam a') (hlo : b.inPrgLo a = b'.inPrgLo a')
    (hhi : b.inPrgHi a = b'.inPrgHi a') : (decodeCpuRead b a).op = (decodeCpuRead b' a').op := by
  unfold decodeCpuRead
  rw [hr, hlo, hhi]
  split_ifs <;> rfl

end

theorem inRead_iff {b : Board} {a : Nat} : b.inRead a = true ↔ b.readBase ≤ a ∧ a ≤ b.readTop := by
  simp [Board.inRead]

/-- Two addresses with the same bits above bit 12 are in the same windows whose ends are multiples of 0x2000. -/
theorem inRange_congr {base size a a' : Nat} (hb : base % 2 ^ 13 = 0) (hs : size % 2 ^ 13 = 0)
    (ha : a / 2 ^ 13 = a' / 2 ^ 13) : inRange base size a = inRange base size a' := by
  rw [Bool.eq_iff_iff, inRange_iff, inRange_iff]
  omega

/-- At the default addresses the row of a CPU word's operation is told by `W` and bits 15:13 of the address. -/
theorem decodeCpu_op_congr {b : Board} (hb : defaultAddresses b) {t t' : Nat}
    (hw : busIsWrite 16 t = busIsWrite 16 t') (ha : busAddr 16 t / 2 ^ 13 = busAddr 16 t' / 2 ^ 13) :
    (decodeCpu b t).op = (decodeCpu (tableBoard b.shift b.hasChrRam) t').op := by
  obtain ⟨hram, hmirr, hprgc, hlo, hhi, hrb, hrt, hwidth, -⟩ := hb
  have hwidth' : (tableBoard b.shift b.hasChrRam).addrW = 16 := rfl
  have hr : b.inRam (busAddr 16 t) = (tableBoard b.shift b.hasChrRam).inRam (busAddr 16 t') := by
    rw [Board.inRam, hram]; exact inRange_congr rfl rfl ha
  unfold decodeCpu
  rw [hwidth, hwidth', hw]
  split
  · refine decodeCpuWrite_op_congr (b := b) (b' := tableBoard b.shift b.hasChrRam) rfl ?_ ?_ hr ?_ _ _
    · rw [Board.inPrgc, hprgc]; exact inRange_congr rfl rfl ha
    · rw [Board.inMirr, hmirr]; exact inRange_congr rfl rfl ha
    · have hlt := busAddr_lt 16 t
      have hlt' := busAddr_lt 16 t'
      rw [Bool.eq_iff_iff, inRead_iff, inRead_iff, hrb, hrt]
      change _ ↔ 0x6000 ≤ _ ∧ _ ≤ 0xFFFF
      omega
  · refine decodeCpuRead_op_congr hr ?_ ?_
    · rw [Board.inPrgLo, hlo]; exact inRange_congr rfl rfl ha
    · rw [Board.inPrgHi, hhi]; exact inRange_congr rfl rfl ha

/-- At the default widths the row of a PPU word's operation is told by `W` and bit 13 of the address. -/
theorem decodePpu_op_congr {b : Board} (hb : defaultAddresses b) {t t' : Nat}
    (hw : busIsWrite 14 t = busIsWrite 14 t') (ha : busAddr 14 t / 2 ^ 13 = busAddr 14 t' / 2 ^ 13) :
    (decodePpu b t).op = (decodePpu (tableBoard b.shift b.hasChrRam) t').op := by
  obtain ⟨-, -, -, -, -, -, -, -, hwidth⟩ := hb
  have hwidth' : (tableBoard b.shift b.hasChrRam).ppuAddrW = 14 := rfl
  have hchr : (tableBoard b.shift b.hasChrRam).hasChrRam = b.hasChrRam := rfl
  have hv : inVideoRam (busAddr 14 t) = inVideoRam (busAddr 14 t') := inRange_congr rfl rfl ha
  have hg : inGraphics (busAddr 14 t) = inGraphics (busAddr 14 t') := inRange_congr rfl rfl ha
  unfold decodePpu decodePpuAccess
  rw [hwidth, hwidth', hw, hv, hg, hchr]
  cases busIsWrite 14 t' <;> split_ifs <;> simp only [Instr.op]

/-- At the default addresses and widths a request and its top bits decode to operations of one row. -/
theorem decode_op_top {b : Board} (hb : defaultAddresses b) {r : Request} {i : Instr} (hd : decode b r = .ok i) :
    ∃ j, decode (tableBoard b.shift b.hasChrRam) r.top = .ok j ∧ j.op = i.op := by
  cases r with
  | cpu t =>
    obtain rfl : decodeCpu b t = i := Except.ok.inj hd
    refine ⟨_, rfl, (decodeCpu_op_congr hb ?_ ?_).symm⟩
    · rw [busIsWrite_eq, busIsWrite_eq, decide_eq_decide]; omega
    · unfold busAddr; omega
  | ppu t =>
    obtain rfl : decodePpu b t = i := Except.ok.inj hd
    refine ⟨_, rfl, (decodePpu_op_congr hb ?_ ?_).symm⟩
    · rw [busIsWrite_eq, busIsWrite_eq, decide_eq_decide]; omega
    · unfold busAddr; omega
  | host op img =>
    obtain ⟨rfl, rfl⟩ | ⟨rfl, rfl⟩ | ⟨rfl, rfl⟩ | ⟨rfl, rfl⟩ | ⟨rfl, rfl⟩ := decodeHost_cases hd <;>
      exact ⟨_, rfl, rfl⟩

/-! ### The table on the words of top bits -/

theorem opcodeTable_cpu (v : ShiftVariant) (p : Bool) : ∀ k < 2 ^ 4,
    (opcodeTable.filter (Row.selects (tableBoard v p) (.cpu (k * 2 ^ 21)))).map Row.op =
      [(decodeCpu (tableBoard v p) (k * 2 ^ 21)).op] := by
  cases v <;> cases p <;> decide

theorem opcodeTable_ppu (v : ShiftVariant) (p : Bool) : ∀ k < 2 ^ 2,
    (opcodeTable.filter (Row.selects (tableBoard v p) (.ppu (k * 2 ^ 21)))).map Row.op =
      [(decodePpu (tableBoard v p) (k * 2 ^ 21)).op] := by
  cases v <;> cases p <;> decide

theorem opcodeTable_host (v : ShiftVariant) (p : Bool) {op : BitVec 3} {i : Instr} (hd : decodeHost op [] = .ok i) :
    (opcodeTable.filter (Row.selects (tableBoard v p) (.host op []))).map Row.op = [i.op] := by
  obtain ⟨rfl, rfl⟩ | ⟨rfl, rfl⟩ | ⟨rfl, rfl⟩ | ⟨rfl, rfl⟩ | ⟨rfl, rfl⟩ := decodeHost_cases hd <;>
    cases v <;> cases p <;> decide

/-- On a table board exactly one row selects a request of top bits that decodes, and it is its operation's row. -/
theorem opcodeTable_top {v : ShiftVariant} {p : Bool} {r : Request} {j : Instr}
    (hd : decode (tableBoard v p) r.top = .ok j) :
    (opcodeTable.filter (Row.selects (tableBoard v p) r.top)).map Row.op = [j.op] := by
  cases r with
  | cpu t => cases hd; exact opcodeTable_cpu v p _ (Nat.mod_lt _ (by decide))
  | ppu t => cases hd; exact opcodeTable_ppu v p _ (Nat.mod_lt _ (by decide))
  | host op img => exact opcodeTable_host v p hd

/-- Settles O7: a request and its top bits have the same rows (`selects_top`) and operations of one row
(`decode_op_top`), and for words of top bits the table is run through (`opcodeTable_top`). -/
theorem decodeAgreesWithOpcodeTable : Obligations.DecodeAgreesWithOpcodeTable := by
  intro b r i hb hd
  obtain ⟨j, hj, hop⟩ := decode_op_top hb hd
  have hrows := opcodeTable_top hj
  rw [← List.filter_congr fun row hrow => selects_top hrow b r, List.map_eq_singleton_iff] at hrows
  obtain ⟨row, hrow, hrowop⟩ := hrows
  exact ⟨row, hrow, hrowop.trans hop⟩

end Sys2Proof

/-! PROOFS. What a step on a bus word does, for every address (R83, R84): CPU writes (R88), CPU reads (R150), PPU accesses
(R148, R149), and which of their bits they do not read (R87, R113(c), R130). -/

namespace Sys2Proof.Machine

/-! ### The two control writes -/

/-- The program-bank write of either shift discipline is the common body on a live board, and not live it is refused. -/
theorem exec_prgwFor (v : ShiftVariant) (off : BitVec 13) (d : Byte) (s : State) :
    exec (prgwFor v off d) s = whenAdmitted .bus s (.next (s.programBankWrite d)) := by
  cases v <;> rfl

theorem exec_prgwFor_live {s : State} (hl : s.phase = .live) (v : ShiftVariant) (off : BitVec 13) (d : Byte) :
    exec (prgwFor v off d) s = .next (s.programBankWrite d) := by
  rw [exec_prgwFor, whenAdmitted_of_none _ (admission_bus.mpr hl)]

/-- R87: the operand of a program-bank write is bit 0 of its data. -/
theorem prgBit_congr {d d' : Byte} (h : d.toNat % 2 = d'.toNat % 2) : prgBit d = prgBit d' := by
  apply BitVec.eq_of_toNat_eq
  simpa [prgBit, BitVec.extractLsb'_toNat] using h

/-- R130: the operand of a mirroring write is the low `MIRR_BITS` bits of its data. -/
theorem mirrField_congr {w : MirrBits} {d d' : Byte} (h : d.toNat % 2 ^ w.width = d'.toNat % 2 ^ w.width) :
    mirrField w d = mirrField w d' := by
  apply BitVec.eq_of_toNat_eq
  rw [mirrField_toNat, mirrField_toNat, h]

/-! ### Steps on CPU words -/

section
variable {s : State} {rest : List Request} {a : Nat}

/-- R83: a step on a CPU write runs what its address and data decode to. -/
theorem step_cpuWrite {d : Byte} (hlt : a < 2 ^ s.board.addrW)
    (hp : s.pending = .cpu (cpuWord s.board true a d) :: rest) :
    step s = exec (decodeCpuWrite s.board a d) { s with pending := rest } :=
  step_of_decode hp (decode_cpuWrite d hlt)

/-- R83: a step on a CPU read runs what its address decodes to. -/
theorem step_cpuRead {d : Byte} (hlt : a < 2 ^ s.board.addrW)
    (hp : s.pending = .cpu (cpuWord s.board false a d) :: rest) :
    step s = exec (decodeCpuRead s.board a) { s with pending := rest } :=
  step_of_decode hp (decode_cpuRead d hlt)

/-- R84: a step on a PPU word runs what its address and direction decode to. -/
theorem step_ppuWord {w : Bool} {d : Byte} (hlt : a < 2 ^ s.board.ppuAddrW)
    (hp : s.pending = .ppu (ppuWord s.board w a d) :: rest) :
    step s = exec (decodePpuAccess s.board a (if w then .write d else .read)) { s with pending := rest } :=
  step_of_decode hp (decode_ppuWord w d hlt)

/-- R110, R111: a step on a write in the program-bank-control range, whatever the offset. -/
theorem step_prgcWrite {d : Byte} (hmap : s.board.mapOk = true) (ha : s.board.inPrgc a = true)
    (hp : s.pending = .cpu (cpuWord s.board true a d) :: rest) :
    step s = whenAdmitted .bus { s with pending := rest }
      (.next (State.programBankWrite { s with pending := rest } d)) := by
  rw [step_cpuWrite (lt_of_inWindow hmap (by simp [Board.inWriteWindow, ha])) hp, decodeCpuWrite_of_inPrgc ha,
    exec_prgwFor]

/-- R125: a step on a write in the mirroring-control range, whatever the offset. -/
theorem step_mirrWrite {d : Byte} (hmap : s.board.mapOk = true) (ha : s.board.inMirr a = true)
    (hp : s.pending = .cpu (cpuWord s.board true a d) :: rest) :
    step s = execMirw 0 d { s with pending := rest } := by
  rw [step_cpuWrite (lt_of_inWindow hmap (by simp [Board.inWriteWindow, ha])) hp, decodeCpuWrite_of_inMirr hmap ha]
  rfl

end

/-- A live board that meets the invariant has windows that meet R53 and R55. -/
theorem Inv.mapOk {s : State} (hs : Inv s) (hl : s.phase = .live) : s.board.mapOk = true :=
  (accepted_parts (hs.accepted (by rw [hl]; rfl))).2.2

/-- R33, R148: on a live board with graphics RAM that meets the invariant the graphics window is driven. -/
theorem Inv.chr_driven {s : State} (hs : Inv s) (hl : s.phase = .live) (hc : s.board.hasChrRam = true) :
    s.map.chr = .chrRamBank0 := by
  rw [hs.mapFresh hl, syncMap, hc]
  rfl

/-- `PA[12:0]` of an address of the video-RAM range is its offset there (R84, R86). -/
theorem offsetIn_videoRam {pa : Nat} (h : 0x2000 ≤ pa) : offsetIn 13 0x2000 pa = BitVec.ofNat 13 pa := by
  apply BitVec.eq_of_toNat_eq
  rw [offsetIn, BitVec.toNat_ofNat, BitVec.toNat_ofNat]
  omega

/-! ### The statements -/

/-- Settles O8: a write in a control range does one thing, whatever its offset (`step_prgcWrite`, `step_mirrWrite`), and
reads of its data the operand alone (`prgBit_congr`, `mirrField_congr`). -/
theorem controlWritesReadOnlyTheirDataBits : Obligations.ControlWritesReadOnlyTheirDataBits := by
  intro s rest a a' d d' hmap
  have hprgc : ∀ {a : Nat} (d : Byte), s.board.inPrgc a = true →
      step { s with pending := .cpu (cpuWord s.board true a d) :: rest } =
        whenAdmitted .bus { s with pending := rest } (.next (State.programBankWrite { s with pending := rest } d)) :=
    fun {a} d ha => step_prgcWrite (s := { s with pending := .cpu (cpuWord s.board true a d) :: rest }) hmap ha rfl
  have hmirr : ∀ {a : Nat} (d : Byte), s.board.inMirr a = true →
      step { s with pending := .cpu (cpuWord s.board true a d) :: rest } = execMirw 0 d { s with pending := rest } :=
    fun {a} d ha => step_mirrWrite (s := { s with pending := .cpu (cpuWord s.board true a d) :: rest }) hmap ha rfl
  refine ⟨fun ha ha' hd => ?_, fun ha ha' hd => ?_⟩
  · rw [hprgc d ha, hprgc d' ha']
    simp only [State.programBankWrite, prgBit_congr hd]
  · rw [hmirr d ha, hmirr d' ha']
    simp only [execMirw, State.board, mirrField_congr hd]

/-- Settles O54: the address is in one of the three write windows or in none, and in each case the operation is the
window's. -/
theorem cpuWriteEffects : Obligations.CpuWriteEffects := by
  intro s a d rest hs hl hlt hp
  have hmap := hs.mapOk hl
  have hstep := step_cpuWrite hlt hp
  cases hprgc : s.board.inPrgc a with
  | true =>
    obtain ⟨hmirr, hram⟩ := inMirr_inRam_eq_false_of_inPrgc hmap hprgc
    rw [decodeCpuWrite_of_inPrgc hprgc, exec_prgwFor_live (s := { s with pending := rest }) hl] at hstep
    exact ⟨_, hstep, fun _ => shiftIn_toNat d s.prg, nofun, by simp [hmirr], fun _ => rfl, by simp [hram],
      fun _ _ => rfl, rfl, rfl⟩
  | false =>
  cases hmirr : s.board.inMirr a with
  | true =>
    obtain ⟨-, hram⟩ := inPrgc_inRam_eq_false_of_inMirr hmap hmirr
    rw [decodeCpuWrite_of_inMirr hmap hmirr] at hstep
    exact ⟨_, hstep.trans (exec_mirw_next.mpr ⟨hl, rfl⟩), nofun, fun _ => rfl, fun _ => mirrField_toNat _ d, nofun,
      by simp [hram], fun _ _ => rfl, rfl, rfl⟩
  | false =>
  cases hram : s.board.inRam a with
  | true =>
    have hoff := offsetIn_toNat (n := 13) hram
    rw [decodeCpuWrite_of_inRam hmap hram] at hstep
    refine ⟨_, hstep.trans (exec_ramw_next.mpr ⟨hl, rfl⟩), nofun, fun _ => rfl, nofun, fun _ => rfl, fun _ => ?_,
      fun k hk => ?_, hs.mapFresh hl, rfl⟩
    · rw [← hoff]
      exact Memory.read_write_same hs.ramWf _ d
    · exact Memory.read_write_other (hoff ▸ hk rfl) d s.ram
  | false =>
    rw [decodeCpuWrite_of_not_inWriteWindow (by simp [Board.inWriteWindow, hprgc, hmirr, hram])] at hstep
    have hnone : step s = .next (State.answer { s with pending := rest } .none) := by
      rw [hstep]
      split
      · exact exec_wnop_next.mpr ⟨hl, rfl⟩
      · exact exec_extw_next.mpr ⟨hl, rfl⟩
    exact ⟨_, hnone, nofun, fun _ => rfl, nofun, fun _ => rfl, nofun, fun _ _ => rfl, hs.mapFresh hl, rfl⟩

/-- Settles O55: `cpu_lookup` tests the read windows in the order of the decoder, and each window's read answers the byte
at the offset of the address. -/
theorem cpuReadFollowsLookup : Obligations.CpuReadFollowsLookup := by
  intro s a d rest hs hl hlt hp
  have hs' := hs.withPending rest
  have hl' : ({ s with pending := rest } : State).phase = .live := hl
  have hmap := hs.mapOk hl
  rw [step_cpuRead hlt hp, cpuLookup]
  cases hram : s.board.inRam a with
  | true =>
    rw [decodeCpuRead_of_inRam hram, exec_rdram_next.mpr ⟨hl', rfl⟩, offsetIn_toNat (n := 13) hram]
    rfl
  | false =>
  cases hlo : s.board.inPrgLo a with
  | true =>
    rw [decodeCpuRead_of_inPrgLo hmap hlo, exec_rdlo_live hs' hl', romIndex, offsetIn_toNat (n := 14) hlo]
    rfl
  | false =>
  cases hhi : s.board.inPrgHi a with
  | true =>
    rw [decodeCpuRead_of_inPrgHi hmap hhi, exec_rdhi_live hs' hl', romIndex, offsetIn_toNat (n := 14) hhi]
    rfl
  | false =>
    rw [decodeCpuRead_of_not_inReadWindow (by simp [Board.inReadWindow, hram, hlo, hhi]),
      exec_extr_next.mpr ⟨hl', rfl⟩]
    rfl

/-- Settles O56: the address is in the video-RAM range, in the graphics window of a board with graphics RAM, or in
neither, and in each case the operation is that of R84. -/
theorem ppuAccessEffects : Obligations.PpuAccessEffects := by
  intro s w pa d rest hs hl hlt hp
  have hl' : ({ s with pending := rest } : State).phase = .live := hl
  have hstep := step_ppuWord hlt hp
  have hv : inVideoRam pa = true ↔ 0x2000 ≤ pa ∧ pa < 0x4000 := inRange_iff
  have hg : inGraphics pa = true ↔ pa < 0x2000 := inRange_iff.trans (by omega)
  cases hvid : inVideoRam pa with
  | true =>
    obtain ⟨hlo, hhi⟩ := hv.mp hvid
    rw [decodePpuAccess_of_inVideoRam hvid, exec_ntsel_next.mpr ⟨hl', rfl⟩, offsetIn_videoRam hlo] at hstep
    exact ⟨_, hstep, fun _ _ => ⟨_, rfl, rfl⟩, by omega, by omega, by omega, by omega⟩
  | false =>
  cases hgc : inGraphics pa && s.board.hasChrRam with
  | true =>
    obtain ⟨hgr, hc⟩ := Bool.and_eq_true_iff.mp hgc
    have hlt' := hg.mp hgr
    have hdriven := (hs.withPending rest).chr_driven hl' hc
    have hoff : (offsetIn 13 0 pa).toNat = pa := offsetIn_toNat hgr
    have hne : ¬(pa < 0x2000 ∧ s.board.hasChrRam = false ∨ 0x4000 ≤ pa) := by rw [hc]; simp; omega
    cases w with
    | false =>
      rw [if_neg Bool.false_ne_true, decodePpuAccess_read_of_inGraphics hgr hc, exec_chrrd_next.mpr ⟨hl', rfl⟩,
        chrWindowRead_driven hdriven, hoff] at hstep
      exact ⟨_, hstep, by omega, fun _ _ _ => rfl, nofun, fun h => absurd h hne, nofun⟩
    | true =>
      rw [if_pos rfl, decodePpuAccess_write_of_inGraphics hgr hc, exec_chrwr_next.mpr ⟨hl', rfl⟩,
        chrWindowWrite_driven hdriven, hoff] at hstep
      exact ⟨_, hstep, by omega, nofun, fun _ _ _ => ⟨Memory.read_write_same hs.chrWf pa d,
        fun k hk => Memory.read_write_other hk d s.chr, rfl⟩, nofun, fun h => absurd h hne⟩
  | false =>
    have hno : ¬(0x2000 ≤ pa ∧ pa < 0x4000) := by rw [← hv, hvid]; exact Bool.false_ne_true
    have hno' : pa < 0x2000 → s.board.hasChrRam ≠ true := fun h hc => by simp [hg.mpr h, hc] at hgc
    rw [decodePpuAccess_of_neither hvid hgc, exec_chrext_next.mpr ⟨hl', rfl⟩] at hstep
    refine ⟨_, hstep, fun h h' => absurd ⟨h, h'⟩ hno, fun h hc => absurd hc (hno' h), fun h hc => absurd hc (hno' h),
      ?_, ?_⟩
    · rintro - rfl; rfl
    · rintro - rfl; rfl

end Sys2Proof.Machine

/-! PROOFS. What one operation can do to each piece of state (R37), and what follows for runs of operations: the
accumulation in `PRG` (R112), serial loading (R91, R116), and a stored byte read back (R171). -/

namespace Sys2Proof

theorem Instr.prgwData_of_isQuiet {i : Instr} (hi : i.isQuiet = true) : i.prgwData = none := by
  cases i with
  | prgwAh _ _ | prgwAhsr _ _ => cases hi
  | _ => rfl

theorem Instr.isPrgw_of_prgwData {i : Instr} {d : Byte} (hd : i.prgwData = some d) : i.isPrgw = true := by
  cases i with
  | prgwAh _ _ | prgwAhsr _ _ => rfl
  | _ => cases hd

end Sys2Proof

namespace Sys2Proof.Machine

section
variable {i : Instr} {s t : State}

/-! ### Each piece of state -/

/-- R110, R111: what an operation can do to `PRG`: a program-bank write shifts its bit in, CONSTRUCT and RESTORE set it,
every other operation leaves it. -/
theorem exec_prg (h : exec i s = .next t) :
    (t.prg = s.prg ∧ i.prgwData = none) ∨ (∃ d, i.prgwData = some d ∧ t.prg = shiftIn (prgBit d) s.prg) ∨
      i = .construct ∨ ∃ img, i = .restore img := by
  cases exec_effect h with
  | quiet hi hb => obtain ⟨_, _, rfl⟩ := hb.eq_with; exact .inl ⟨rfl, Instr.prgwData_of_isQuiet hi⟩
  | prgw hd _ => exact .inr (.inl ⟨_, hd, rfl⟩)
  | construct _ _ => exact .inr (.inr (.inl rfl))
  | restore img _ _ => exact .inr (.inr (.inr ⟨img, rfl⟩))
  | mirw _ _ _ | ramw _ _ _ | chrwr _ _ _ _ | undriven _ _ _ _ | power _ | close _ | sync => exact .inl ⟨rfl, rfl⟩

/-- R163: what an operation can do to `RAM`: RAMW stores a byte, CONSTRUCT, RESTORE and CLOSE replace it, every other
operation leaves it. -/
theorem exec_ram (h : exec i s = .next t) :
    t.ram = s.ram ∨ (∃ off v, i = .ramw off v ∧ t.ram = s.ram.write off.toNat v) ∨
      (i = .construct ∧ s.phase = .none) ∨ (∃ img, i = .restore img) ∨ i = .close := by
  cases exec_effect h with
  | quiet _ hb => obtain ⟨_, _, rfl⟩ := hb.eq_with; exact .inl rfl
  | ramw off v _ => exact .inr (.inl ⟨off, v, rfl, rfl⟩)
  | construct hn _ => exact .inr (.inr (.inl ⟨rfl, hn⟩))
  | restore img _ _ => exact .inr (.inr (.inr (.inl ⟨img, rfl⟩)))
  | close _ => exact .inr (.inr (.inr (.inr rfl)))
  | prgw _ _ | mirw _ _ _ | chrwr _ _ _ _ | undriven _ _ _ _ | power _ | sync => exact .inl rfl

/-- R167: what an operation can do to `CHR`: CHRWR stores a byte, CONSTRUCT, RESTORE and CLOSE replace it, every other
operation leaves it. -/
theorem exec_chr (h : exec i s = .next t) :
    t.chr = s.chr ∨ (∃ off v, i = .chrwr off v ∧ t.chr = s.chr.write off.toNat v) ∨
      (i = .construct ∧ s.phase = .none) ∨ (∃ img, i = .restore img) ∨ i = .close := by
  cases exec_effect h with
  | quiet _ hb => obtain ⟨_, _, rfl⟩ := hb.eq_with; exact .inl rfl
  | chrwr off v _ _ => exact .inr (.inl ⟨off, v, rfl, rfl⟩)
  | construct hn _ => exact .inr (.inr (.inl ⟨rfl, hn⟩))
  | restore img _ _ => exact .inr (.inr (.inr (.inl ⟨img, rfl⟩)))
  | close _ => exact .inr (.inr (.inr (.inr rfl)))
  | prgw _ _ | mirw _ _ _ | ramw _ _ _ | undriven _ _ _ _ | power _ | sync => exact .inl rfl

/-- R36: what an operation can do to the phase. -/
theorem exec_phase (h : exec i s = .next t) :
    t.phase = s.phase ∨ (i = .construct ∧ s.phase = .none ∧ t.phase = .built) ∨
      (i = .power ∧ (s.phase = .built ∨ s.phase = .live) ∧ t.phase = .live) ∨ (i = .close ∧ t.phase = .closed) := by
  cases exec_effect h with
  | quiet _ hb => obtain ⟨_, _, rfl⟩ := hb.eq_with; exact .inl rfl
  | construct hn _ => exact .inr (.inl ⟨rfl, hn, rfl⟩)
  | power hp => exact .inr (.inr (.inl ⟨rfl, hp, rfl⟩))
  | close _ => exact .inr (.inr (.inr ⟨rfl, rfl⟩))
  | prgw _ _ | mirw _ _ _ | ramw _ _ _ | chrwr _ _ _ _ | undriven _ _ _ _ | restore _ _ _ | sync => exact .inl rfl

/-- R35: what an operation can do to the ownership markers. -/
theorem exec_own (h : exec i s = .next t) :
    (t.ownRam = s.ownRam ∧ t.ownChr = s.ownChr) ∨
      (i = .construct ∧ s.phase = .none ∧ t.ownRam = true) ∨
      (i = .close ∧ t.ownRam = false ∧ t.ownChr = false) := by
  cases exec_effect h with
  | quiet _ hb => obtain ⟨_, _, rfl⟩ := hb.eq_with; exact .inl ⟨rfl, rfl⟩
  | construct hn _ => exact .inr (.inl ⟨rfl, hn, rfl⟩)
  | close _ => exact .inr (.inr ⟨rfl, rfl, rfl⟩)
  | prgw _ _ | mirw _ _ _ | ramw _ _ _ | chrwr _ _ _ _ | undriven _ _ _ _ | power _ | restore _ _ _ | sync =>
    exact .inl ⟨rfl, rfl⟩

/-- Only CLOSE leads out of phase LIVE. -/
theorem exec_keeps_live (hl : s.phase = .live) (hi : i ≠ .close) (h : exec i s = .next t) : t.phase = .live := by
  obtain hp | ⟨-, hn, -⟩ | ⟨-, -, hp⟩ | ⟨hc, -⟩ := exec_phase h
  · exact hp.trans hl
  · rw [hl] at hn; cases hn
  · exact hp
  · exact absurd hc hi

/-- R171: on a live board an operation that is no store there, no RESTORE and no CLOSE leaves a byte of `RAM`. -/
theorem exec_ram_read {off : BitVec 13} (hl : s.phase = .live) (hi : i ≠ .close ∧ ∀ img, i ≠ .restore img)
    (hw : ∀ w, i ≠ .ramw off w) (h : exec i s = .next t) : t.ram.read off.toNat = s.ram.read off.toNat := by
  obtain ⟨hnc, hnr⟩ := hi
  obtain hr | ⟨off', v, rfl, hr⟩ | ⟨-, hn⟩ | ⟨img, hr⟩ | hc := exec_ram h
  · rw [hr]
  · rw [hr, Memory.read_write_other]
    exact fun he => hw v (by rw [BitVec.eq_of_toNat_eq he])
  · rw [hl] at hn; cases hn
  · exact absurd hr (hnr img)
  · exact absurd hc hnc

/-- R171: on a live board an operation that is no store there, no RESTORE and no CLOSE leaves a byte of `CHR`. -/
theorem exec_chr_read {off : BitVec 13} (hl : s.phase = .live) (hi : i ≠ .close ∧ ∀ img, i ≠ .restore img)
    (hw : ∀ w, i ≠ .chrwr off w) (h : exec i s = .next t) : t.chr.read off.toNat = s.chr.read off.toNat := by
  obtain ⟨hnc, hnr⟩ := hi
  obtain hr | ⟨off', v, rfl, hr⟩ | ⟨-, hn⟩ | ⟨img, hr⟩ | hc := exec_chr h
  · rw [hr]
  · rw [hr, Memory.read_write_other]
    exact fun he => hw v (by rw [BitVec.eq_of_toNat_eq he])
  · rw [hl] at hn; cases hn
  · exact absurd hr (hnr img)
  · exact absurd hc hnc

end

/-! ### Runs of operations -/

/-- A run of operations answers a next state when its first operation does and the rest does from there. -/
theorem execAll_cons_next {i : Instr} {is : List Instr} {s t : State} :
    execAll (i :: is) s = .next t ↔ ∃ u, exec i s = .next u ∧ execAll is u = .next t := by
  rw [execAll]
  cases exec i s <;> simp

theorem execAll_nil_next {s t : State} : execAll [] s = .next t ↔ t = s := by
  rw [execAll, Host.Outcome.next.injEq, eq_comm]

/-- What every operation of a list keeps, a run of the list keeps. -/
theorem execAll_keeps {P : State → Prop} {is : List Instr} {s t : State}
    (hstep : ∀ i ∈ is, ∀ u u', P u → exec i u = .next u' → P u') (hs : P s) (h : execAll is s = .next t) : P t := by
  induction is generalizing s with
  | nil => obtain rfl := execAll_nil_next.mp h; exact hs
  | cons i is ih =>
    obtain ⟨u, hu, h⟩ := execAll_cons_next.mp h
    exact ih (fun j hj => hstep j (List.mem_cons_of_mem i hj)) (hstep i List.mem_cons_self s u hs hu) h

theorem execAll_launch {is : List Instr} {s t : State} (h : execAll is s = .next t) : t.launch = s.launch :=
  execAll_keeps (P := fun u => u.launch = s.launch) (fun _ _ _ _ hu h => (exec_launch h).trans hu) rfl h

/-! ### The accumulation in `PRG` -/

/-- R112: a bit shifted in and then `B` on top of it are one string of bits over the old register. -/
theorem shift_accumulate (x p B k : Nat) : (16 * x + p / 2 + 32 * B) / 2 ^ k = (p + 32 * (x + 2 * B)) / 2 ^ (k + 1) := by
  rw [Nat.pow_succ', ← Nat.div_div_eq_div_mul]
  congr 1
  omega

/-- R112: the register after a run is the bits written over the prior register, shifted by their number. -/
theorem execAll_prg {is : List Instr} {s t : State} (his : ∀ i ∈ is, i ≠ .construct ∧ ∀ img, i ≠ .restore img)
    (h : execAll is s = .next t) :
    t.prg.toNat =
      (s.prg.toNat + 32 * bitsValue (is.filterMap Instr.prgwData)) / 2 ^ (is.filterMap Instr.prgwData).length := by
  induction is generalizing s with
  | nil => obtain rfl := execAll_nil_next.mp h; simp [bitsValue]
  | cons i is ih =>
    obtain ⟨u, hu, h⟩ := execAll_cons_next.mp h
    obtain ⟨⟨hnc, hnr⟩, his⟩ := List.forall_mem_cons.mp his
    rw [ih his h]
    obtain ⟨hp, hd⟩ | ⟨d, hd, hp⟩ | hc | ⟨img, hr⟩ := exec_prg hu
    · rw [hp, List.filterMap_cons_none hd]
    · rw [hp, shiftIn_toNat, List.filterMap_cons_some hd, shift_accumulate, bitsValue, List.length_cons]
    · exact absurd hc hnc
    · exact absurd hr (hnr img)

/-- On a live board any run of program-bank writes completes, and once SYNC has run the mapping is SYNC's. -/
theorem execAll_prgwFor_live (v : ShiftVariant) (ws : List (BitVec 13 × Byte)) {s : State} (hl : s.phase = .live) :
    ∃ t, execAll (ws.map fun w => prgwFor v w.1 w.2) s = .next t ∧
      (ws ≠ [] ∨ s.map = syncMap s.board s.prg s.mirr → t.map = syncMap t.board t.prg t.mirr) := by
  induction ws generalizing s with
  | nil => exact ⟨s, rfl, fun h => h.resolve_left (absurd rfl)⟩
  | cons w ws ih =>
    obtain ⟨t, ht, hmap⟩ := ih (s := s.programBankWrite w.2) hl
    exact ⟨t, execAll_cons_next.mpr ⟨_, exec_prgwFor_live hl v w.1 w.2, ht⟩, fun _ => hmap (.inr rfl)⟩

theorem filterMap_prgwFor (v : ShiftVariant) (ws : List (BitVec 13 × Byte)) :
    (ws.map fun w => prgwFor v w.1 w.2).filterMap Instr.prgwData = ws.map Prod.snd := by
  have hd : ∀ w : BitVec 13 × Byte, (prgwFor v w.1 w.2).prgwData = some w.2 := by cases v <;> exact fun _ => rfl
  induction ws with
  | nil => rfl
  | cons w ws ih => rw [List.map_cons, List.filterMap_cons_some (hd w), ih, List.map_cons]

/-- The bits of a number, least significant first, are that number (R91). -/
theorem bitsValue_of_bits {ws : List (BitVec 13 × Byte)} {n : Nat}
    (h : ∀ (j : Nat) (w : BitVec 13 × Byte), ws[j]? = some w → w.2.toNat % 2 = n / 2 ^ j % 2) :
    bitsValue (ws.map Prod.snd) = n % 2 ^ ws.length := by
  induction ws generalizing n with
  | nil => simp [bitsValue, Nat.mod_one]
  | cons w ws ih =>
    have htail : bitsValue (ws.map Prod.snd) = n / 2 % 2 ^ ws.length := by
      refine ih fun j w' hj => ?_
      rw [h (j + 1) w' (by rwa [List.getElem?_cons_succ]), Nat.pow_succ', Nat.div_div_eq_div_mul]
    have hhead : w.2.toNat % 2 = n % 2 := by simpa using h 0 w rfl
    rw [List.map_cons, bitsValue, hhead, htail, List.length_cons, Nat.pow_succ', Nat.mod_mul]

/-- R116: with `j` bits (at most five) on top of a register of five. -/
theorem loaded_bits {j : Nat} (hj : j ≤ 5) (p x : Nat) : (p + 32 * x) / 2 ^ j = x * 2 ^ (5 - j) + p / 2 ^ j := by
  have h32 : 32 * x = 2 ^ j * (x * 2 ^ (5 - j)) := by
    rw [Nat.mul_left_comm, ← Nat.pow_add, Nat.add_sub_cancel' hj, Nat.mul_comm]
  rw [h32, Nat.add_mul_div_left _ _ (Nat.two_pow_pos j), Nat.add_comm]

/-- Settles O12: `execAll_prg`, by induction over the list. -/
theorem programBankAccumulation : Obligations.ProgramBankAccumulation := fun _ _ _ => execAll_prg

/-- Settles O11: the accumulation over the bits of `n` (`execAll_prg`, `bitsValue_of_bits`), and SYNC's lower window. -/
theorem serialLoadReachesAnyBank : Obligations.SerialLoadReachesAnyBank := by
  intro s n ws hl hlen hbits
  obtain ⟨t, ht, hfresh⟩ := execAll_prgwFor_live s.board.shift ws hl
  have hkind : ∀ i ∈ ws.map fun w => prgwFor s.board.shift w.1 w.2, i ≠ .construct ∧ ∀ img, i ≠ .restore img := by
    intro i hi
    obtain ⟨w, -, rfl⟩ := List.mem_map.mp hi
    cases s.board.shift <;> exact ⟨nofun, nofun⟩
  have hprg := execAll_prg hkind ht
  rw [filterMap_prgwFor, bitsValue_of_bits hbits, List.length_map, loaded_bits hlen] at hprg
  refine ⟨t, ht, hprg, fun h5 => ?_, fun hne hv hb => ?_⟩
  · have hn := n.isLt
    have hp := s.prg.isLt
    rw [h5] at hprg
    exact BitVec.eq_of_toNat_eq (by omega)
  · have hboard : t.board = s.board := congrArg Launch.board (execAll_launch ht)
    rw [hfresh (.inl hne), hboard, syncMap, reduceBank_toNat hb, Board.selectBank, hv]

/-! ### A stored byte read back -/

/-- R171: a byte of `RAM` on a live board is what RDRAM answers after any run with no store there, no RESTORE, no CLOSE. -/
theorem execAll_then_rdram {off : BitVec 13} {is : List Instr} {t u : State} (hl : t.phase = .live)
    (his : ∀ i ∈ is, i ≠ .close ∧ ∀ img, i ≠ .restore img) (hw : ∀ i ∈ is, ∀ w, i ≠ .ramw off w)
    (hu : execAll is t = .next u) :
    exec (.rdram off) u = .next { u with reply := .byte (t.ram.read off.toNat) } := by
  obtain ⟨hul, hread⟩ := execAll_keeps
    (P := fun x => x.phase = .live ∧ x.ram.read off.toNat = t.ram.read off.toNat)
    (fun i hi x y ⟨hxl, hx⟩ h =>
      ⟨exec_keeps_live hxl (his i hi).1 h, (exec_ram_read hxl (his i hi) (hw i hi) h).trans hx⟩) ⟨hl, rfl⟩ hu
  rw [← hread]
  exact exec_rdram_next.mpr ⟨hul, rfl⟩

/-- R171: a byte of `CHR` on a live board with graphics RAM is what CHRRD answers after any run with no store there, no
RESTORE and no CLOSE. -/
theorem execAll_then_chrrd {off : BitVec 13} {is : List Instr} {t u : State} (ht : Inv t) (hl : t.phase = .live)
    (hc : t.board.hasChrRam = true) (his : ∀ i ∈ is, i ≠ .close ∧ ∀ img, i ≠ .restore img)
    (hw : ∀ i ∈ is, ∀ w, i ≠ .chrwr off w) (hu : execAll is t = .next u) :
    exec (.chrrd off) u = .next { u with reply := .byte (t.chr.read off.toNat) } := by
  obtain ⟨hui, hul, hread⟩ := execAll_keeps
    (P := fun x => Inv x ∧ x.phase = .live ∧ x.chr.read off.toNat = t.chr.read off.toNat)
    (fun i hi x y ⟨hxi, hxl, hx⟩ h =>
      ⟨hxi.of_exec h, exec_keeps_live hxl (his i hi).1 h, (exec_chr_read hxl (his i hi) (hw i hi) h).trans hx⟩)
    ⟨ht, hl, rfl⟩ hu
  have huc : u.board.hasChrRam = true := by rw [State.board, execAll_launch hu]; exact hc
  rw [← hread, exec_chrrd_next.mpr ⟨hul, rfl⟩, chrWindowRead_driven (hui.chr_driven hul huc)]
  rfl

/-- Settles O28: the store puts the byte there, and no operation of the list takes it away. -/
theorem storeThenLoad : Obligations.StoreThenLoad := by
  intro s t u off v is hs hu his
  refine ⟨fun ht hw => ?_, fun hc ht hw => ?_⟩
  · obtain ⟨hl, rfl⟩ := exec_ramw_next.mp ht
    rw [execAll_then_rdram (t := (s.putRam off.toNat v).answer .none) hl his hw hu]
    exact congrArg (fun b => Host.Outcome.next { u with reply := .byte b }) (Memory.read_write_same hs.ramWf off.toNat v)
  · have hti := hs.of_exec ht
    obtain ⟨hl, rfl⟩ := exec_chrwr_next.mp ht
    rw [chrWindowWrite_driven (hs.chr_driven hl hc)] at hti hu
    rw [execAll_then_chrrd hti hl hc his hw hu]
    exact congrArg (fun b => Host.Outcome.next { u with reply := .byte b }) (Memory.read_write_same hs.chrWf off.toNat v)

end Sys2Proof.Machine

/-! PROOFS. LOADBANK and SETMIRR as steps of the machine (R91), the write matrix (R37), ownership (R35, R184), admission
(R175), and what a bus transaction reads and reaches (R151, R208). -/

namespace Sys2Proof.Machine

/-! ### The pseudo-operations -/

/-- The machine runs one step, then the others. -/
theorem run_succ {M : Host.Core} {s t : M.State} (k : Nat) (h : M.step s = .next t) : M.run (k + 1) s = M.run k t := by
  rw [Host.Core.run, h]

theorem inRange_base {base size : Nat} (h : 0 < size) : inRange base size base = true :=
  inRange_iff.mpr ⟨le_rfl, Nat.lt_add_of_pos_right h⟩

/-- R91, R112: the steps of listed writes at `PRGC_BASE` leave their bits over the prior `PRG`, and the rest listed. -/
theorem run_prgcWrites (ds : List Byte) {s : State} {rest : List Request} (hl : s.phase = .live)
    (hmap : s.board.mapOk = true)
    (hp : s.pending = ds.map (fun d => .cpu (cpuWord s.board true s.board.prgcBase d)) ++ rest) :
    ∃ t : State, Host.Core.run core ds.length s = .next t ∧
      t.prg.toNat = (s.prg.toNat + 32 * bitsValue ds) / 2 ^ ds.length ∧ t.mirr = s.mirr ∧ t.pending = rest := by
  induction ds generalizing s with
  | nil => exact ⟨s, rfl, by simp [bitsValue], rfl, hp⟩
  | cons d ds ih =>
    have hstep := step_prgcWrite hmap (inRange_base (by decide)) hp
    have hnext := hstep.trans (whenAdmitted_of_none _ (admission_bus.mpr hl))
    obtain ⟨t, ht, hprg, hmirr, hrest⟩ := ih (s := State.programBankWrite { s with
      pending := ds.map (fun d => .cpu (cpuWord s.board true s.board.prgcBase d)) ++ rest } d) hl hmap rfl
    refine ⟨t, (run_succ (M := core) ds.length hnext).trans ht, ?_, hmirr, hrest⟩
    rw [hprg, State.programBankWrite_prg, shiftIn_toNat, shift_accumulate]
    rfl

/-- R91: the five bytes of LOADBANK spell its number. -/
theorem bitsValue_bankBit : ∀ n : BitVec 5, bitsValue ((List.range 5).map (bankBit n)) = n.toNat := by decide

/-- Settles O14: LOADBANK by `run_prgcWrites`, SETMIRR by `step_mirrWrite`. -/
theorem pseudoOperationsLoadTheRegisters : Obligations.PseudoOperationsLoadTheRegisters := by
  intro s rest hl hmap
  refine ⟨fun n hp => ?_, fun m hp => ?_⟩
  · have hlisted : loadBank s.board n =
        ((List.range 5).map (bankBit n)).map fun d => .cpu (cpuWord s.board true s.board.prgcBase d) := rfl
    obtain ⟨t, ht, hprg, hmirr, hrest⟩ := run_prgcWrites _ hl hmap (hlisted ▸ hp)
    refine ⟨t, ht, BitVec.eq_of_toNat_eq ?_, hmirr, hrest⟩
    have hs := s.prg.isLt
    rw [hprg, bitsValue_bankBit, List.length_map, List.length_range]
    omega
  · have hstep := step_mirrWrite hmap (inRange_base (by decide)) hp
    have hnext := hstep.trans (exec_mirw_next (off := 0).mpr ⟨hl, rfl⟩)
    exact ⟨_, run_succ (M := core) 0 hnext, mirrField_toNat s.board.mirrBits m, rfl, rfl⟩

/-! ### The write matrix, ownership, the launch -/

/-- Settles O57: each row by the lemma about its piece of state. -/
theorem writeMatrix : Obligations.WriteMatrix := by
  intro i s t h
  refine ⟨fun hne => ?_, fun hne => ?_, fun hne => ?_, fun hne => ?_, fun hne => ?_, fun hne => ?_, fun hne => ?_⟩
  · obtain ⟨hp, -⟩ | ⟨d, hd, -⟩ | hc | hr := exec_prg h
    · exact absurd hp hne
    · exact .inr (.inl (Instr.isPrgw_of_prgwData hd))
    · exact .inl hc
    · exact .inr (.inr hr)
  · obtain hm | ⟨hc, -⟩ | ⟨off, d, hi, -⟩ | ⟨img, hi, -⟩ := exec_mirr h
    · exact absurd hm hne
    · exact .inl hc
    · exact .inr (.inl ⟨off, d, hi⟩)
    · exact .inr (.inr ⟨img, hi⟩)
  · obtain hr | ⟨off, v, hi, -⟩ | ⟨hc, -⟩ | hi | hi := exec_ram h
    · exact absurd hr hne
    · exact .inr (.inl ⟨off, v, hi⟩)
    · exact .inl hc
    · exact .inr (.inr (.inl hi))
    · exact .inr (.inr (.inr hi))
  · obtain hr | ⟨off, v, hi, -⟩ | ⟨hc, -⟩ | hi | hi := exec_chr h
    · exact absurd hr hne
    · exact .inr (.inl ⟨off, v, hi⟩)
    · exact .inl hc
    · exact .inr (.inr (.inl hi))
    · exact .inr (.inr (.inr hi))
  · by_contra hi
    exact hne (exec_map_of_not_runsSync (Bool.eq_false_iff.mpr hi) h)
  · obtain ⟨hr, hc⟩ | ⟨hi, -⟩ | ⟨hi, -⟩ := exec_own h
    · exact absurd hne (by simp [hr, hc])
    · exact .inl hi
    · exact .inr hi
  · obtain hp | ⟨hi, -⟩ | ⟨hi, -⟩ | ⟨hi, -⟩ := exec_phase h
    · exact absurd hp hne
    · exact .inl hi
    · exact .inr (.inl hi)
    · exact .inr (.inr hi)

/-- Settles O45: the markers by `exec_own`, the phases by `exec_phase`. -/
theorem ownershipChangesOnlyAtConstructAndClose : Obligations.OwnershipChangesOnlyAtConstructAndClose := by
  intro i s t h
  refine ⟨fun hs ht => ?_, fun hs ht => ?_, fun hs ht => ?_, fun hs ht => ?_, fun hs => ?_, fun hs ht => ?_⟩
  · obtain ⟨hr, -⟩ | ⟨-, -, hr⟩ | ⟨hi, -⟩ := exec_own h
    · exact absurd (hr.symm.trans ht) (by simp [hs])
    · exact absurd (hr.symm.trans ht) (by decide)
    · exact hi
  · obtain ⟨-, hc⟩ | ⟨hi, hn, -⟩ | ⟨hi, -⟩ := exec_own h
    · exact absurd (hc.symm.trans ht) (by simp [hs])
    · exact .inr ⟨hi, hn⟩
    · exact .inl hi
  · obtain ⟨hr, -⟩ | ⟨hi, hn, -⟩ | ⟨-, hr, -⟩ := exec_own h
    · exact absurd (hr.symm.trans ht) (by simp [hs])
    · exact ⟨hi, hn⟩
    · exact absurd (hr.symm.trans ht) (by decide)
  · obtain ⟨-, hc⟩ | ⟨hi, hn, -⟩ | ⟨-, -, hc⟩ := exec_own h
    · exact absurd (hc.symm.trans ht) (by simp [hs])
    · exact ⟨hi, hn⟩
    · exact absurd (hc.symm.trans ht) (by decide)
  · obtain hp | ⟨-, hn, -⟩ | ⟨-, hp | hp, -⟩ | ⟨-, hp⟩ := exec_phase h
    · exact hp.trans hs
    · rw [hs] at hn; cases hn
    · rw [hs] at hp; cases hp
    · rw [hs] at hp; cases hp
    · exact hp
  · obtain hp | ⟨-, -, hp⟩ | ⟨-, -, hp⟩ | ⟨-, hp⟩ := exec_phase h
    · exact hs (hp.symm.trans ht)
    · rw [ht] at hp; cases hp
    · rw [ht] at hp; cases hp
    · rw [ht] at hp; cases hp

/-- Settles O58: a step changes the launch no more than its operation does. -/
theorem launchNeverChanges : Obligations.LaunchNeverChanges := by
  intro s t h
  obtain ⟨-, rfl⟩ | ⟨_, rest, _, -, -, hi⟩ := step_cases h
  · rfl
  · exact exec_launch (s := { s with pending := rest }) hi

/-! ### Admission -/

/-- The row of the admission table an operation is in (R175); SYNC is in none. -/
def opClass : Instr → Option OpClass
  | .construct => some .construct
  | .power => some .power
  | .save => some .save
  | .restore _ => some .restore
  | .close => some .close
  | .sync => none
  | _ => some .bus

theorem opClass_eq_none {i : Instr} : opClass i = none ↔ i = .sync := by
  cases i <;> simp [opClass]

theorem opClass_eq_close {i : Instr} : opClass i = some .close ↔ i = .close := by
  cases i <;> simp [opClass]

theorem opClass_of_isBus {i : Instr} (hi : i.isBus = true) : opClass i = some .bus := by
  cases i with
  | construct | power | save | restore _ | close | sync => cases hi
  | _ => rfl

/-- R175: an operation is refused with the reason its row has for the phase. -/
theorem exec_refused {i : Instr} {c : OpClass} {s : State} {r : Refusal} (hc : opClass i = some c)
    (h : admission c s.phase = some r) : exec i s = .refused r := by
  cases i with
  | sync => cases hc
  | _ => cases hc; exact whenAdmitted_of_some _ h

/-- R175: the column of phase CLOSED. -/
theorem admission_closed {c : OpClass} (hc : c ≠ .close) : admission c .closed = some .closed := by
  cases c with
  | close => exact absurd rfl hc
  | _ => rfl

/-- Settles O46: each cell of the table by `exec_refused`. -/
theorem admissionTable : Obligations.AdmissionTable := by
  intro i s
  refine ⟨fun hp => ⟨?_, ?_⟩, fun hp => ⟨?_, ?_⟩, fun hp hi => ?_, fun hp hclose hsync => ?_⟩
  · rintro (rfl | rfl)
    · exact exec_refused rfl (hp ▸ rfl)
    · exact exec_refused rfl (hp ▸ rfl)
  · rintro (hi | rfl | ⟨img, rfl⟩)
    · exact exec_refused (opClass_of_isBus hi) (hp ▸ rfl)
    · exact exec_refused rfl (hp ▸ rfl)
    · exact exec_refused rfl (hp ▸ rfl)
  · rintro rfl
    exact exec_refused rfl (hp ▸ rfl)
  · rintro (hi | rfl | ⟨img, rfl⟩)
    · exact exec_refused (opClass_of_isBus hi) (hp ▸ rfl)
    · exact exec_refused rfl (hp ▸ rfl)
    · exact exec_refused rfl (hp ▸ rfl)
  · subst hi
    exact exec_refused rfl (hp ▸ rfl)
  · cases hc : opClass i with
    | none => exact absurd (opClass_eq_none.mp hc) hsync
    | some c =>
      have hne : c ≠ .close := fun he => hclose (opClass_eq_close.mp (he ▸ hc))
      exact exec_refused hc (hp ▸ admission_closed hne)

/-! ### What a bus transaction reads and reaches -/

/-- R151: two states that agree in all a bus transaction may read for its answer. -/
structure SameView (s s' : State) : Prop where
  map : s.map = s'.map
  ram : s.ram = s'.ram
  chr : s.chr = s'.chr
  rom : s.launch.rom = s'.launch.rom
  draws : s.draws = s'.draws

theorem openBusRead_congr {s s' : State} (hd : s.draws = s'.draws) :
    s.openBusRead.reply = s'.openBusRead.reply ∧ s.openBusRead.draws = s'.openBusRead.draws := by
  simp [hd]

/-- R148: a read of the graphics window reads `MAP` and `CHR`, or draws. -/
theorem chrWindowRead_congr {s s' : State} (hv : SameView s s') (off : BitVec 13) :
    (s.chrWindowRead off).reply = (s'.chrWindowRead off).reply ∧
      (s.chrWindowRead off).draws = (s'.chrWindowRead off).draws := by
  cases hc : s.map.chr with
  | chrRamBank0 =>
    rw [chrWindowRead_driven hc, chrWindowRead_driven (hv.map ▸ hc)]
    simp [hv.chr, hv.draws]
  | notDriven =>
    rw [chrWindowRead_notDriven hc, chrWindowRead_notDriven (hv.map ▸ hc)]
    exact openBusRead_congr hv.draws

/-- A decoded bus write answers nothing and draws nothing. -/
theorem exec_busWrite_answer {i : Instr} {s t : State} (hi : i.isBus = true) (hw : i.isReadOrUndecoded = false)
    (h : exec i s = .next t) : t.reply = .none ∧ t.draws = s.draws := by
  cases exec_effect h with
  | quiet hq _ =>
    have hsave : i = .save := by simpa [Instr.isQuiet, hw] using hq
    rw [hsave] at hi
    cases hi
  | prgw _ _ | mirw _ _ _ | ramw _ _ _ | chrwr _ _ _ _ | undriven _ _ _ _ => exact ⟨rfl, rfl⟩
  | construct _ _ | power _ | restore _ _ _ | close _ | sync => cases hi

/-- R151: a bus transaction answers alike, and draws alike, in two states of one view. -/
theorem exec_bus_reply_congr {i : Instr} {s s' t t' : State} (hi : i.isBus = true) (hv : SameView s s')
    (h : exec i s = .next t) (h' : exec i s' = .next t') : t.reply = t'.reply ∧ t.draws = t'.draws := by
  cases i with
  | prgwAh _ _ | prgwAhsr _ _ | mirw _ _ | ramw _ _ | chrwr _ _ =>
    obtain ⟨hr, hd⟩ := exec_busWrite_answer rfl rfl h
    obtain ⟨hr', hd'⟩ := exec_busWrite_answer rfl rfl h'
    exact ⟨hr.trans hr'.symm, hd.trans (hv.draws.trans hd'.symm)⟩
  | wnop _ _ =>
    obtain ⟨-, rfl⟩ := exec_wnop_next.mp h
    obtain ⟨-, rfl⟩ := exec_wnop_next.mp h'
    exact ⟨rfl, hv.draws⟩
  | extw _ _ =>
    obtain ⟨-, rfl⟩ := exec_extw_next.mp h
    obtain ⟨-, rfl⟩ := exec_extw_next.mp h'
    exact ⟨rfl, hv.draws⟩
  | rdram _ =>
    obtain ⟨-, rfl⟩ := exec_rdram_next.mp h
    obtain ⟨-, rfl⟩ := exec_rdram_next.mp h'
    simp [hv.ram, hv.draws]
  | rdlo _ =>
    obtain ⟨-, -, rfl⟩ := exec_rdlo_next.mp h
    obtain ⟨-, -, rfl⟩ := exec_rdlo_next.mp h'
    simp [hv.map, hv.rom, hv.draws]
  | rdhi _ =>
    obtain ⟨-, -, rfl⟩ := exec_rdhi_next.mp h
    obtain ⟨-, -, rfl⟩ := exec_rdhi_next.mp h'
    simp [hv.map, hv.rom, hv.draws]
  | extr _ =>
    obtain ⟨-, rfl⟩ := exec_extr_next.mp h
    obtain ⟨-, rfl⟩ := exec_extr_next.mp h'
    exact openBusRead_congr hv.draws
  | chrrd off =>
    obtain ⟨-, rfl⟩ := exec_chrrd_next.mp h
    obtain ⟨-, rfl⟩ := exec_chrrd_next.mp h'
    exact chrWindowRead_congr hv off
  | chrext _ acc =>
    obtain ⟨-, rfl⟩ := exec_chrext_next.mp h
    obtain ⟨-, rfl⟩ := exec_chrext_next.mp h'
    cases acc with
    | read => exact openBusRead_congr hv.draws
    | write _ => exact ⟨rfl, hv.draws⟩
  | ntsel _ _ =>
    obtain ⟨-, rfl⟩ := exec_ntsel_next.mp h
    obtain ⟨-, rfl⟩ := exec_ntsel_next.mp h'
    simp [hv.map, hv.draws]
  | construct | power | save | restore _ | close | sync => cases hi

/-- Settles O59: both steps run one operation, since the boards agree, and it answers alike (`exec_bus_reply_congr`). -/
theorem answersDependOnlyOnMapAndMemories : Obligations.AnswersDependOnlyOnMapAndMemories := by
  intro s s' t t' r rest rest' hr hboard hmap hram hchr hrom hdraws hp hp' h h'
  obtain ⟨i, hd, hi⟩ := decode_bus (b := s.board) hr
  rw [step_of_decode hp hd] at h
  rw [step_of_decode hp' (hboard ▸ hd)] at h'
  exact exec_bus_reply_congr (s := { s with pending := rest }) (s' := { s' with pending := rest' }) hi
    ⟨hmap, hram, hchr, hrom, hdraws⟩ h h'

/-- Settles O60: the request decodes to a bus transaction (`decode_bus`), whose frame is `exec_bus_frame`. -/
theorem busReachesNoHostState : Obligations.BusReachesNoHostState := by
  intro s t r rest hp hr h
  obtain ⟨i, hd, hi⟩ := decode_bus (b := s.board) hr
  exact exec_bus_frame hi ((step_of_decode hp hd).symm.trans h)

end Sys2Proof.Machine

/-! PROOFS. SYNC and the mirroring mode (R135 to R143), each operation of the buses on a live board (R160 to R169), the
half-select (R149), and the steps and words of R15, R82 and R90. -/

namespace Sys2Proof

/-! ### The mirroring mode -/

/-- R142: bit 0 of `MIRR` selects the single-screen variant. -/
theorem singleScreen_eq (m : BitVec 2) : singleScreen m = if m.toNat % 2 = 0 then .s0 else .s1 := by
  revert m; decide

section
variable {b : Board}

/-- R8: of four distinct codes `CFG` equals at most one. -/
theorem namesDistinct_codes (h : b.namesDistinct = true) : b.cfgH ≠ b.cfgV ∧ b.cfgH ≠ b.cfgMA ∧ b.cfgH ≠ b.cfgMB ∧
    b.cfgV ≠ b.cfgMA ∧ b.cfgV ≠ b.cfgMB := by
  simp only [Board.namesDistinct, Bool.and_eq_true, decide_eq_true_eq] at h
  obtain ⟨hn, -⟩ := h
  simp only [List.nodup_cons, List.mem_cons, List.not_mem_nil, not_or] at hn
  obtain ⟨⟨hHV, hHA, hHB, -⟩, ⟨hVA, hVB, -⟩, -⟩ := hn
  exact ⟨hHV, hHA, hHB, hVA, hVB⟩

/-- R142: under `CFG_H` the mode is horizontal. -/
theorem mirrorMode_of_cfgH (h : b.cfg = b.cfgH) (m : BitVec 2) : b.mirrorMode m = .h := by
  rw [Board.mirrorMode, if_pos h]

/-- R142: under `CFG_V` the mode is vertical. -/
theorem mirrorMode_of_cfgV (hn : b.namesDistinct = true) (h : b.cfg = b.cfgV) (m : BitVec 2) : b.mirrorMode m = .v := by
  obtain ⟨hHV, -⟩ := namesDistinct_codes hn
  rw [Board.mirrorMode, if_neg (h ▸ hHV.symm), if_pos h]

/-- R142: under a mapper-controlled `CFG` the mode is the single-screen variant of `MIRR`. -/
theorem mirrorMode_of_mapperControlled (hn : b.namesDistinct = true) (h : b.cfg = b.cfgMA ∨ b.cfg = b.cfgMB)
    (m : BitVec 2) : b.mirrorMode m = singleScreen m := by
  obtain ⟨-, hHA, hHB, hVA, hVB⟩ := namesDistinct_codes hn
  have hH : b.cfg ≠ b.cfgH := h.elim (· ▸ hHA.symm) (· ▸ hHB.symm)
  have hV : b.cfg ≠ b.cfgV := h.elim (· ▸ hVA.symm) (· ▸ hVB.symm)
  rw [Board.mirrorMode, if_neg hH, if_neg hV, if_pos h]

/-- R143: under an unrecognised `CFG` the mode is the fallback's. -/
theorem mirrorMode_of_unrecognised (h : b.cfgRecognised = false) (m : BitVec 2) : b.mirrorMode m = singleScreen m := by
  simp only [Board.cfgRecognised, Bool.or_eq_false_iff, decide_eq_false_iff_not] at h
  obtain ⟨⟨⟨hH, hV⟩, hA⟩, hB⟩ := h
  rw [Board.mirrorMode, if_neg hH, if_neg hV, if_neg (not_or.mpr ⟨hA, hB⟩), fallbackMode]

end

/-! ### The half of video RAM -/

theorem ntHalf_h_toNat (pa : BitVec 13) : (ntHalf .h pa).toNat = pa.toNat / 2048 % 2 := by
  rw [ntHalf, BitVec.toNat_ofBool, BitVec.getLsbD, Nat.toNat_testBit]

theorem ntHalf_v_toNat (pa : BitVec 13) : (ntHalf .v pa).toNat = pa.toNat / 1024 % 2 := by
  rw [ntHalf, BitVec.toNat_ofBool, BitVec.getLsbD, Nat.toNat_testBit]

theorem ntHalf_s0_toNat (pa : BitVec 13) : (ntHalf .s0 pa).toNat = 0 := rfl

theorem ntHalf_s1_toNat (pa : BitVec 13) : (ntHalf .s1 pa).toNat = 1 := rfl

end Sys2Proof

namespace Sys2Proof.Machine

/-! ### The statements: SYNC and the mirroring write -/

/-- Settles O15: under the invariant the mapping before is SYNC's, which reads `MIRR` in the mode alone. -/
theorem mirroringWriteStoresLowBits : Obligations.MirroringWriteStoresLowBits := by
  intro s off d hs hl
  refine ⟨_, exec_mirw_next.mpr ⟨hl, rfl⟩, mirrField_toNat _ d, ?_, rfl, fun _ => rfl, fun _ => rfl⟩
  rw [hs.mapFresh hl]
  rfl

/-- Settles O18: the register's bit 0 is the data's, and it selects the mode (`mirrorMode_of_mapperControlled`). -/
theorem mapperControlledModeIsBitZero : Obligations.MapperControlledModeIsBitZero := by
  intro s off d hl hn hcfg
  obtain ⟨t, ht, -⟩ := exec_mirw_live off d hl
  have hbit : t.mirr.toNat % 2 = d.toNat % 2 := by
    rw [exec_mirw_mirr ht, mirrField_toNat]
    cases s.board.mirrBits with
    | one => exact Nat.mod_mod d.toNat 2
    | two => exact Nat.mod_mod_of_dvd d.toNat (by decide)
  exact ⟨t, ht, by rw [exec_mirw_mirror ht, mirrorMode_of_mapperControlled hn hcfg, singleScreen_eq, hbit]⟩

/-- Settles O19: field by field from `syncMap`. -/
theorem syncComputesTheMapping : Obligations.SyncComputesTheMapping := by
  intro s hb hn
  refine ⟨s.sync, rfl, rfl, fun hv => ?_, fun hv => ?_, reduceBank_last hb, rfl, fun h => mirrorMode_of_cfgH h _,
    fun h => mirrorMode_of_cfgV hn h _, fun h => ?_, fun h => ?_⟩
  · rw [State.sync_map, syncMap, reduceBank_toNat hb, Board.selectBank, hv]
  · rw [State.sync_map, syncMap, reduceBank_toNat hb, Board.selectBank, hv]
  · exact (mirrorMode_of_mapperControlled hn h _).trans (singleScreen_eq _)
  · exact (mirrorMode_of_unrecognised h _).trans (singleScreen_eq _)

/-- Settles O20: SYNC leaves the registers it reads. -/
theorem syncIsIdempotent : Obligations.SyncIsIdempotent := by
  intro s t h
  obtain rfl := exec_sync_next.mp h
  rfl

/-! ### The statements: the CPU bus -/

/-- Settles O22: `exec_rdram_next`. -/
theorem scratchRamReadAnswersTheByte : Obligations.ScratchRamReadAnswersTheByte :=
  fun _ _ hl => exec_rdram_next.mpr ⟨hl, rfl⟩

/-- Settles O23: a read after a write of a memory in canonical form. -/
theorem scratchRamWriteStoresTheByte : Obligations.ScratchRamWriteStoresTheByte := by
  intro s off v hs hl
  exact ⟨_, exec_ramw_next.mpr ⟨hl, rfl⟩, Memory.read_write_same hs.ramWf _ v,
    fun _ ha => Memory.read_write_other ha v s.ram, rfl⟩

/-- Settles O24: both reads complete under the invariant, and the upper window shows the last bank. -/
theorem programWindowReadsComplete : Obligations.ProgramWindowReadsComplete := by
  intro s off hs hl
  refine ⟨exec_rdlo_live hs hl off, ?_⟩
  rw [exec_rdhi_live hs hl off, romIndex, hs.prgHi_toNat hl]
  rfl

/-- Past the end of program memory a read is the model's fault. -/
theorem readRom_fault {k : Nat} {s : State} (h : s.board.romSize ≤ k) : readRom k s = .fault .romOutOfRange := by
  rw [readRom, if_neg (Nat.not_lt.mpr h)]

/-- Settles O25: both reads end in `readRom`. -/
theorem readPastProgramMemoryFaults : Obligations.ReadPastProgramMemoryFaults := by
  intro s off hl
  have hbus := admission_bus.mpr hl
  exact ⟨fun h => (whenAdmitted_of_none _ hbus).trans (readRom_fault h),
    fun h => (whenAdmitted_of_none _ hbus).trans (readRom_fault h)⟩

/-- Settles O26: neither operation writes anything but the reply. -/
theorem undecodedWritesDoNothing : Obligations.UndecodedWritesDoNothing :=
  fun _ _ _ hl => ⟨exec_wnop_next.mpr ⟨hl, rfl⟩, exec_extw_next.mpr ⟨hl, rfl⟩⟩

/-- Settles O27: the graphics window, where it is not driven, by `chrWindowRead_notDriven` and
`chrWindowWrite_notDriven`. -/
theorem unansweredReadsAreDraws : Obligations.UnansweredReadsAreDraws := by
  intro s a pa off d hl
  exact ⟨exec_extr_next.mpr ⟨hl, rfl⟩, exec_chrext_next.mpr ⟨hl, rfl⟩, exec_chrext_next.mpr ⟨hl, rfl⟩,
    fun hc => ⟨exec_chrrd_next.mpr ⟨hl, (chrWindowRead_notDriven hc off).symm⟩,
      exec_chrwr_next.mpr ⟨hl, (chrWindowWrite_notDriven hc off d).symm⟩⟩⟩

/-- Settles O29: `exec_sameBlock`. -/
theorem readsAndUndecodedWritesChangeNothing : Obligations.ReadsAndUndecodedWritesChangeNothing :=
  fun _ _ _ => exec_sameBlock

/-! ### The statements: the PPU bus -/

/-- Settles O30: under the invariant the window of a board with graphics RAM is driven. -/
theorem graphicsRamReadsAndWrites : Obligations.GraphicsRamReadsAndWrites := by
  intro s off v hs hl hc
  have hdriven := hs.chr_driven hl hc
  exact ⟨exec_chrrd_next.mpr ⟨hl, (chrWindowRead_driven hdriven off).symm⟩, _,
    exec_chrwr_next.mpr ⟨hl, (chrWindowWrite_driven hdriven off v).symm⟩, Memory.read_write_same hs.chrWf _ v,
    fun _ ha => Memory.read_write_other ha v s.chr, rfl⟩

/-- Settles O31: mode by mode. -/
theorem videoRamHalfSelect : Obligations.VideoRamHalfSelect := by
  intro s pa acc hl
  refine ⟨_, exec_ntsel_next.mpr ⟨hl, rfl⟩, fun h => ?_, fun h => ?_, fun h => ?_, fun h => ?_⟩ <;> rw [h]
  · exact ntHalf_h_toNat pa
  · exact ntHalf_v_toNat pa
  · exact ntHalf_s0_toNat pa
  · exact ntHalf_s1_toNat pa

/-- Settles O32: the table and the offset are the digits of the address. -/
theorem videoRamTables : Obligations.VideoRamTables := by
  intro pa table offset ht ho hpa
  have hoff : pa.toNat % 1024 = offset := by omega
  refine ⟨?_, ?_, ?_, ?_⟩
  · rw [videoRamIndex, ntHalf_h_toNat, hoff]
    split <;> omega
  · rw [videoRamIndex, ntHalf_v_toNat, hoff]
    omega
  · rw [videoRamIndex, ntHalf_s0_toNat, hoff, Nat.zero_mul, Nat.zero_add]
  · rw [videoRamIndex, ntHalf_s1_toNat, hoff, Nat.one_mul]

/-! ### The statements: a step, and the words -/

/-- Settles O1: `step_of_decode`. -/
theorem stepRunsDecodedOperation : Obligations.StepRunsDecodedOperation := fun _ _ _ _ => step_of_decode

/-- Settles O2: `step_of_nil`. -/
theorem stepWithNothingListedChangesNothing : Obligations.StepWithNothingListedChangesNothing := fun _ => step_of_nil

/-- Settles O3: the selectors that spell an operation are the five of `decodeHost_cases`. -/
theorem unknownHostSelectorIsRefused : Obligations.UnknownHostSelectorIsRefused := by
  intro s op img rest hp hop
  cases hd : decode s.board (.host op img) with
  | error e =>
    rw [step_of_error hp hd]
    cases e <;> rfl
  | ok i =>
    obtain ⟨rfl, -⟩ | ⟨rfl, -⟩ | ⟨rfl, -⟩ | ⟨rfl, -⟩ | ⟨rfl, -⟩ := decodeHost_cases hd <;>
      exact absurd hop (by decide)

/-- Settles O4: each word is decoded. -/
theorem writtenOutWordsDecode : Obligations.WrittenOutWordsDecode :=
  ⟨rfl, rfl, rfl, rfl, rfl, rfl, rfl, rfl, rfl, rfl, rfl, rfl, rfl⟩

/-- Settles O9: the weights of the fields at the default widths. -/
theorem traceNotationNumbers : Obligations.TraceNotationNumbers := by
  intro b hc hp
  refine ⟨fun a d => ?_, fun pa d => ?_⟩
  · rw [cpuWord, cpuWord, hc]
    simp [busWord]
  · rw [ppuWord, ppuWord, hp]
    simp [busWord]

end Sys2Proof.Machine

/-! PROOFS. The lifecycle (R176 to R187): construction, power, the snapshot image and its round trip, closing; and the
states a run starts from (R15(b), R44 to R46). -/

namespace Sys2Proof

/-- A register byte, zero-extended, read back. -/
theorem zeroExtend_eq_ofNat {n : Nat} (x : BitVec n) : x.zeroExtend 8 = BitVec.ofNat 8 x.toNat :=
  BitVec.eq_of_toNat_eq (by simp)

/-- R25, R181: the five bits RESTORE takes of the byte SAVE makes of `PRG`. -/
theorem extractLsb'_zeroExtend : ∀ p : BitVec 5, (p.zeroExtend 8).extractLsb' 0 5 = p := by decide

/-- The bytes of a memory of one byte. -/
theorem Memory.toBytes_single (v : Byte) : (Memory.single v).toBytes 1 = [v] := by
  simp [Memory.toBytes, List.range_succ]

/-- R34, R182: the field a MIRW or a RESTORE takes of a byte within the width is that byte. -/
theorem mirrField_zeroExtend {w : MirrBits} {m : BitVec 2} (h : m.toNat < 2 ^ w.width) :
    mirrField w (m.zeroExtend 8) = m := by
  apply BitVec.eq_of_toNat_eq
  rw [mirrField_toNat, BitVec.toNat_setWidth_of_le (by decide), Nat.mod_eq_of_lt h]

end Sys2Proof

namespace Sys2Proof.Machine

/-! ### CONSTRUCT, POWER, CLOSE -/

/-- Settles O33: `State.build`, field by field. -/
theorem constructBuildsTheBoard : Obligations.ConstructBuildsTheBoard := by
  intro s hn ha
  exact ⟨_, exec_construct_next.mpr ⟨hn, ha, rfl⟩, rfl, rfl, rfl, rfl, rfl, fun hc => if_pos hc,
    fun hc => if_neg (ne_true_of_eq_false hc), rfl, rfl, rfl⟩

/-- R176, R205: in phase NONE CONSTRUCT is its requirements, in order. -/
theorem exec_construct_none {s : State} (hn : s.phase = .none) :
    exec .construct s =
      if s.board.banksOk = false then .refused .badPrgSize
      else if s.board.cfgOk = false then .refused .badConfig
      else if s.board.mapOk = false then .refused .badMap
      else .next (s.build.answer .none) := by
  rw [exec, execConstruct, whenAdmitted_of_none _ (admission_construct.mpr hn)]
  simp only [Bool.not_eq_true']

/-- Settles O35: the first requirement that fails (`exec_construct_none`). -/
theorem constructRefusesInOrder : Obligations.ConstructRefusesInOrder := by
  intro s hn
  rw [exec_construct_none hn]
  refine ⟨fun hb => ?_, fun hb hc hf => ?_, fun hb hc hm => ?_⟩
  · exact if_pos (decide_eq_false hb)
  · have hcfg : s.board.cfgOk = false := by rw [Board.cfgOk, hc, hf]; rfl
    have hbanks : s.board.banksOk = true := decide_eq_true hb
    rw [if_neg (by simp [hbanks]), if_pos hcfg]
  · have hcfg : s.board.cfgOk = true := by
      rw [Board.cfgOk]
      rcases hc with hc | hc <;> simp [hc]
    have hbanks : s.board.banksOk = true := decide_eq_true hb
    rw [if_neg (by simp [hbanks]), if_neg (by simp [hcfg]), if_pos hm]

/-- Settles O36: `exec_power_next`, in each of the two phases. -/
theorem powerEstablishesTheMapping : Obligations.PowerEstablishesTheMapping :=
  fun _ hp => exec_power_next.mpr ⟨hp, rfl⟩

/-- Settles O37: on a live board under the invariant the mapping, the registration and the phase are already those POWER
sets. -/
theorem powerOnLiveBoardChangesNothing : Obligations.PowerOnLiveBoardChangesNothing := by
  intro s hs hl
  have hmap : s.sync = s := by rw [State.sync, ← hs.mapFresh hl]
  have hlive : s.goLive = s := by rw [State.goLive, ← hs.cheated hl, ← hl]
  exact exec_power_next.mpr ⟨.inr hl, by rw [hmap, hlive]; rfl⟩

/-- Settles O38: CONSTRUCT then POWER, each at its phase. -/
theorem bootReachesFreshLive : Obligations.BootReachesFreshLive := by
  have hboot : ∀ (l : Launch) (m : Mapping) (steps : List Request), l.board.accepted = true →
      execAll [.construct, .power] (State.start l m steps) = .next (State.freshLive l steps) := by
    intro l m steps ha
    exact execAll_cons_next.mpr ⟨_, exec_construct_next.mpr ⟨rfl, ha, rfl⟩,
      execAll_cons_next.mpr ⟨_, exec_power_next.mpr ⟨.inl rfl, rfl⟩, rfl⟩⟩
  exact ⟨hboot, fun m => hboot Launch.default m [] (by decide)⟩

/-- R184: on a closed board that owns nothing CLOSE has nothing to release. -/
theorem release_of_released {s : State} (hram : s.ownRam = false) (hchr : s.ownChr = false) (hc : s.phase = .closed) :
    s.release = s := by
  cases s; cases hram; cases hchr; cases hc; rfl

/-- Settles O44: `State.release`; on a closed board under the invariant nothing is owned and the phase is CLOSED. -/
theorem closeReleasesOnce : Obligations.CloseReleasesOnce := by
  intro s hn
  refine ⟨⟨_, exec_close_next.mpr ⟨hn, rfl⟩, rfl, rfl, rfl, rfl, rfl, rfl⟩, fun hs hc => ?_⟩
  have hram : s.ownRam = false := by rw [hs.ownRam, hc]; rfl
  have hchr : s.ownChr = false := by rw [hs.ownChr, hc]; rfl
  exact exec_close_next.mpr ⟨hn, by rw [release_of_released hram hchr hc]; rfl⟩

/-! ### The snapshot image -/

/-- Settles O39: `saveImage`, region by region. -/
theorem saveTakesTheImage : Obligations.SaveTakesTheImage := by
  intro s hl
  refine ⟨_, exec_save_next.mpr ⟨hl, rfl⟩, ?_⟩
  rw [saveImage, List.map_append]
  congr 1
  · simp only [List.map_cons, List.map_nil, Memory.toBytes_single, zeroExtend_eq_ofNat]
    rfl
  · split <;> rfl

/-- R180, R182: the image of a state that meets the invariant is well formed for its board. -/
theorem imageOk_saveImage {s : State} (hs : Inv s) : imageOk s.board (saveImage s) = true := by
  have hprg : ((regionBytes (saveImage s) 0).read 0).toNat < 32 := by
    have hread : (regionBytes (saveImage s) 0).read 0 = s.prg.zeroExtend 8 := Memory.read_single _
    rw [hread, BitVec.toNat_setWidth_of_le (by decide)]
    exact s.prg.isLt
  have hmirr : ((regionBytes (saveImage s) 1).read 0).toNat < 2 ^ s.board.mirrBits.width := by
    rw [saveImage_mirr_toNat]
    exact hs.mirrWidth
  simp only [imageOk, Bool.and_eq_true, decide_eq_true_eq, List.all_eq_true]
  refine ⟨⟨⟨?_, ?_⟩, hprg⟩, hmirr⟩
  · rw [saveImage, List.map_append, Board.regions]
    congr 1
    split <;> rfl
  · cases hc : s.board.hasChrRam <;>
      simp [saveImage, hc, Memory.wf_single, hs.ramWf, hs.chrWf]

/-- Settles O40: `imageOk_saveImage`. -/
theorem savedImagesAreWellFormed : Obligations.SavedImagesAreWellFormed := by
  intro s t img hs h himg
  obtain ⟨-, rfl⟩ := exec_save_next.mp h
  obtain rfl : saveImage s = img := Reply.image.inj himg
  exact imageOk_saveImage hs

/-- R182: the register bytes of a well-formed image are in range. -/
theorem imageOk_registers {b : Board} {img : Image} (hok : imageOk b img = true) :
    ((regionBytes img 0).read 0).toNat < 32 ∧ ((regionBytes img 1).read 0).toNat < 2 ^ b.mirrBits.width := by
  simp only [imageOk, Bool.and_eq_true, decide_eq_true_eq] at hok
  obtain ⟨⟨-, hprg⟩, hmirr⟩ := hok
  exact ⟨hprg, hmirr⟩

/-- Settles O41: `State.load`, the register bytes being in range (`imageOk_registers`). -/
theorem restoreLoadsTheImage : Obligations.RestoreLoadsTheImage := by
  intro s img hl hok
  obtain ⟨hprg, hmirr⟩ := imageOk_registers hok
  refine ⟨_, exec_restore_next.mpr ⟨hl, hok, rfl⟩, ?_, ?_, fun _ => rfl, fun hc a => ?_,
    fun hc => if_neg (ne_true_of_eq_false hc), rfl, rfl⟩
  · rw [State.answer_prg, State.sync_prg, State.load_prg, BitVec.extractLsb'_toNat]
    exact Nat.mod_eq_of_lt hprg
  · exact (mirrField_toNat _ _).trans (Nat.mod_eq_of_lt hmirr)
  · exact congrArg (Memory.read · a) (if_pos hc)

/-- Settles O42: each of the three fails a part of `imageOk`. -/
theorem restoreRefusesOtherImages : Obligations.RestoreRefusesOtherImages := by
  intro s img hl h
  have hok : imageOk s.board img = false := by
    rw [← Bool.not_eq_true]
    intro hok
    obtain ⟨hprg, hmirr⟩ := imageOk_registers hok
    simp only [imageOk, Bool.and_eq_true, decide_eq_true_eq] at hok
    obtain ⟨⟨⟨hdecls, -⟩, -⟩, -⟩ := hok
    obtain h | h | h := h
    · exact h hdecls
    · exact absurd hprg (Nat.not_lt.mpr h)
    · exact absurd hmirr (Nat.not_lt.mpr h)
  rw [exec, execRestore, whenAdmitted_of_none _ (admission_restore.mpr hl), if_neg (by simp [hok])]

/-- R180: on a board with graphics RAM the fourth region of the image SAVE takes holds `CHR`. -/
theorem regionBytes_saveImage_chr {s : State} (hc : s.board.hasChrRam = true) :
    regionBytes (saveImage s) 3 = s.chr := by
  rw [saveImage, hc]
  rfl

/-- Settles O43: the image is well formed for the second board too, and each region of it is a register or a memory of
the first. -/
theorem snapshotRoundTrip : Obligations.SnapshotRoundTrip := by
  intro s t hs hl ht htl hb
  have hok : imageOk t.board (saveImage s) = true := hb ▸ imageOk_saveImage hs
  have hprg : ((regionBytes (saveImage s) 0).read 0).extractLsb' 0 5 = s.prg := by
    have hread : (regionBytes (saveImage s) 0).read 0 = s.prg.zeroExtend 8 := Memory.read_single _
    rw [hread, extractLsb'_zeroExtend]
  have hmirr : mirrField t.board.mirrBits ((regionBytes (saveImage s) 1).read 0) = s.mirr := by
    have hread : (regionBytes (saveImage s) 1).read 0 = s.mirr.zeroExtend 8 := Memory.read_single _
    rw [hread, hb, mirrField_zeroExtend hs.mirrWidth]
  refine ⟨_, _, _, exec_save_next.mpr ⟨hl, rfl⟩, rfl, exec_restore_next.mpr ⟨htl, hok, rfl⟩, hprg, hmirr, rfl, ?_, ?_⟩
  · rw [State.answer_chr, State.sync_chr, State.load_chr, hb]
    cases hc : s.board.hasChrRam with
    | true => rw [if_pos rfl, regionBytes_saveImage_chr hc]
    | false => rw [if_neg Bool.false_ne_true, ht.chrAbsent (hb ▸ hc), hs.chrAbsent hc]
  · rw [State.answer_map, State.sync_map, State.load_prg, State.load_mirr, hprg, hmirr, hs.mapFresh hl]
    exact congrArg (syncMap · s.prg s.mirr) hb

/-! ### The states a run starts from -/

/-- Settles O49: before CONSTRUCT the invariant asks for the memories of the launch alone. -/
theorem startMeetsInvariant : Obligations.StartMeetsInvariant := by
  intro l m steps hrom hram hchr
  exact {
    romWf := hrom
    ramInitWf := hram
    chrInitWf := hchr
    ramWf := rfl
    chrWf := rfl
    chrAbsent := fun _ => rfl
    mirrWidth := Nat.two_pow_pos _
    accepted := nofun
    mapFresh := nofun
    ownRam := rfl
    ownChr := rfl
    registered := fun h => absurd rfl h
    cheated := nofun }

/-- Settles O48: reset is reached from a start by CONSTRUCT and POWER (`bootReachesFreshLive`), and every operation keeps
the invariant. -/
theorem resetMeetsInvariant : Obligations.ResetMeetsInvariant :=
  execAll_keeps (P := Inv) (fun _ _ _ _ hs h => hs.of_exec h)
    (startMeetsInvariant Launch.default State.reset.map [] rfl rfl rfl) (bootReachesFreshLive.2 State.reset.map)

/-- Settles O47: `State.freshLive` on the default launch. -/
theorem resetValues : Obligations.ResetValues := by
  exact ⟨rfl, rfl, rfl, rfl, rfl, rfl, rfl, rfl⟩

end Sys2Proof.Machine
